-- ==== Sys2Proof/Word.lean ====
section
/-! DEFINITION. The word types of algo-CORE: the widths of 00_scope.md R11, 10_state.md R33 and
30_encoding.md R90. Every quantity is unsigned (00_scope.md R12). -/

namespace Sys2Proof

/-- The 32-bit command word (30_encoding.md R90). -/
abbrev Word := BitVec 32

/-- A 64-bit operand lane, control register or response value (30_encoding.md R90, 10_state.md R23). -/
abbrev Lane := BitVec 64

/-- An entry of the symbol buffer: an unsigned 32-bit symbol (00_scope.md R11, `SYMW`). -/
abbrev Symbol := BitVec 32

/-- An entry of a wide array: 61 bits (10_state.md R33). -/
abbrev WideEntry := BitVec 61

/-- An entry of a narrow array: 30 bits (10_state.md R33). -/
abbrev NarrowEntry := BitVec 30

end Sys2Proof
end

