-- ==== Sys2Proof/Syntax.lean ====
section
/-! DEFINITION. The commands of algo-CORE and what passes over its ports: one constructor of `Instr`
per row of the opcode map (30_encoding.md R94), carrying the operand lanes the command reads
(30_encoding.md R95). -/

namespace Sys2Proof

/-- The eight control and status registers (10_state.md R23 to R31). -/
inductive Csr where
  | id      -- 0
  | status  -- 1
  | seed    -- 2
  | baseW   -- 3
  | baseN   -- 4
  | lenW    -- 5
  | lenN    -- 6
  | maxLen  -- 7
deriving DecidableEq, Repr

/-- The twenty commands (30_encoding.md R94). A field is an operand lane the command reads, or the
control register its word names. -/
inductive Instr where
  /-- `MUL.W a, b` (40_modmul_wide.md R123) -/
  | mulW (a b : Lane)
  /-- `MUL.N a, b` (42_modmul_narrow.md R162) -/
  | mulN (a b : Lane)
  /-- `INIT.W` (40_modmul_wide.md R125) -/
  | initW
  /-- `INIT.N` (42_modmul_narrow.md R164) -/
  | initN
  /-- `BUILD.W n` (41_rollhash_wide.md R141) -/
  | buildW (n : Lane)
  /-- `BUILD.N n` (43_rollhash_narrow.md R176) -/
  | buildN (n : Lane)
  /-- `GETH.W l, r` (41_rollhash_wide.md R142) -/
  | gethW (l r : Lane)
  /-- `GETH.N l, r` (43_rollhash_narrow.md R177) -/
  | gethN (l r : Lane)
  /-- `REVH.W l, r` (41_rollhash_wide.md R143) -/
  | revhW (l r : Lane)
  /-- `REVH.N l, r` (43_rollhash_narrow.md R178) -/
  | revhN (l r : Lane)
  /-- `RDPOW.W i` (40_modmul_wide.md R126) -/
  | rdpowW (i : Lane)
  /-- `RDPOW.N i` (42_modmul_narrow.md R165) -/
  | rdpowN (i : Lane)
  /-- `RDPRE.W i` (41_rollhash_wide.md R144) -/
  | rdpreW (i : Lane)
  /-- `RDPRE.N i` (43_rollhash_narrow.md R179) -/
  | rdpreN (i : Lane)
  /-- `RDSUF.W i` (41_rollhash_wide.md R145) -/
  | rdsufW (i : Lane)
  /-- `RDSUF.N i` (43_rollhash_narrow.md R180) -/
  | rdsufN (i : Lane)
  /-- `WSYM k, s` (44_host_access.md R196) -/
  | wsym (k s : Lane)
  /-- `RSYM k` (44_host_access.md R197) -/
  | rsym (k : Lane)
  /-- `CSRR r` (44_host_access.md R199) -/
  | csrr (r : Csr)
  /-- `CSRW r, v` (44_host_access.md R200) -/
  | csrw (r : Csr) (v : Lane)
deriving DecidableEq, Repr

/-- A command as the host presents it (30_encoding.md R90). -/
structure Command where
  word : Word
  op1  : Lane
  op2  : Lane
deriving DecidableEq, Repr

/-- Why a word is not one of the 27 legal words (30_encoding.md R101). -/
inductive DecodeError where
  | unassignedOpcode  -- R101 (a)
  | reservedBits      -- R101 (b)
  | unassignedCsr     -- R101 (c)
  | readOnlyCsr       -- R101 (c)
deriving DecidableEq, Repr

/-- The status of a response (60_exceptions.md R210). Codes 6 to 15 are never produced, so they have
no constructor. -/
inductive Status where
  | ok
  | capacityExceeded
  | indexOutOfRange
  | illegalCommand
  | operandRange
  | notInitialised
deriving DecidableEq, Repr

/-- The answer to one command (30_encoding.md R90, R96). -/
structure Response where
  status : Status
  val    : Lane
deriving DecidableEq, Repr

/-- What the host does to the block (44_host_access.md R201): present a command; assert reset between
commands, `strap` being the value on `seed_strap` (70_reset_and_hazards.md R240); assert reset while
the command `c` is inside the block (70_reset_and_hazards.md R241). -/
inductive HostEvent where
  | command (c : Command)
  | reset (strap : Lane)
  | resetDuring (c : Command) (strap : Lane)
deriving DecidableEq, Repr

end Sys2Proof
end

