-- ==== Sys2Proof/WellFormed.lean ====
section
/-! DEFINITION. Which terms of `Instr` a legal command word stands for (30_encoding.md R100). The
register number is a constructor of `Csr`, so the one check left is that `CSRW` names the one
writable register, `SEED` (10_state.md R23). -/

namespace Sys2Proof

/-- `CSRW` has one legal word, `CSRW SEED` (44_host_access.md R200). -/
def Csr.writable : Csr → Bool
  | .seed => true
  | .id | .status | .baseW | .baseN | .lenW | .lenN | .maxLen => false

/-- The instruction is the decoding of some legal command. -/
def Instr.wellFormed : Instr → Bool
  | .mulW _ _ => true
  | .mulN _ _ => true
  | .initW => true
  | .initN => true
  | .buildW _ => true
  | .buildN _ => true
  | .gethW _ _ => true
  | .gethN _ _ => true
  | .revhW _ _ => true
  | .revhN _ _ => true
  | .rdpowW _ => true
  | .rdpowN _ => true
  | .rdpreW _ => true
  | .rdpreN _ => true
  | .rdsufW _ => true
  | .rdsufN _ => true
  | .wsym _ _ => true
  | .rsym _ => true
  | .csrr _ => true
  | .csrw r _ => r.writable

end Sys2Proof
end

