-- ==== Sys2Proof/Decode.lean ====
section
/-! DEFINITION. Decoding a command (30_encoding.md R100), total on all words and refusing by name, and
the encoder from the same table (30_encoding.md R94, R109). -/

namespace Sys2Proof

/-- `w[hi:lo]`, the unsigned integer made of bits `hi` down to `lo` (00_scope.md R12). -/
def bitField (w : Word) (hi lo : Nat) : Nat := w.toNat / 2 ^ lo % 2 ^ (hi - lo + 1)

/-- The control register of a number; 8 to 255 are unassigned (10_state.md R24 to R32). -/
def csrOfNumber : Nat → Option Csr
  | 0 => some .id
  | 1 => some .status
  | 2 => some .seed
  | 3 => some .baseW
  | 4 => some .baseN
  | 5 => some .lenW
  | 6 => some .lenN
  | 7 => some .maxLen
  | _ => none

/-- The number of a control register (10_state.md R24 to R31). -/
def csrNumber : Csr → Nat
  | .id => 0
  | .status => 1
  | .seed => 2
  | .baseW => 3
  | .baseN => 4
  | .lenW => 5
  | .lenN => 6
  | .maxLen => 7

/-- Format V: bits [22:0] reserved, bit 23 selects the slice (30_encoding.md R91). -/
def decodeFormatV (w : Word) (wide narrow : Instr) : Except DecodeError Instr :=
  if bitField w 22 0 ≠ 0 then .error .reservedBits
  else if bitField w 23 23 = 0 then .ok wide
  else .ok narrow

/-- Format Z: bits [23:0] reserved (30_encoding.md R92). -/
def decodeFormatZ (w : Word) (i : Instr) : Except DecodeError Instr :=
  if bitField w 23 0 ≠ 0 then .error .reservedBits else .ok i

/-- Format C: bits [23:8] reserved, bits [7:0] the register number (30_encoding.md R93). -/
def decodeFormatC (w : Word) (k : Csr → Except DecodeError Instr) : Except DecodeError Instr :=
  if bitField w 23 8 ≠ 0 then .error .reservedBits
  else match csrOfNumber (bitField w 7 0) with
    | none => .error .unassignedCsr
    | some r => k r

/-- `CSRW` refuses a read-only register at decode (30_encoding.md R100). -/
def decodeCsrw (v : Lane) (r : Csr) : Except DecodeError Instr :=
  if r.writable then .ok (.csrw r v) else .error .readOnlyCsr

/-- Decode a command. The lanes only supply operands (30_encoding.md R95, R100). -/
def decode (c : Command) : Except DecodeError Instr :=
  match bitField c.word 31 24 with
  | 0x01 => decodeFormatV c.word (.mulW c.op1 c.op2) (.mulN c.op1 c.op2)
  | 0x02 => decodeFormatV c.word .initW .initN
  | 0x03 => decodeFormatV c.word (.buildW c.op1) (.buildN c.op1)
  | 0x04 => decodeFormatV c.word (.gethW c.op1 c.op2) (.gethN c.op1 c.op2)
  | 0x05 => decodeFormatV c.word (.revhW c.op1 c.op2) (.revhN c.op1 c.op2)
  | 0x06 => decodeFormatV c.word (.rdpowW c.op1) (.rdpowN c.op1)
  | 0x07 => decodeFormatV c.word (.rdpreW c.op1) (.rdpreN c.op1)
  | 0x08 => decodeFormatV c.word (.rdsufW c.op1) (.rdsufN c.op1)
  | 0x10 => decodeFormatZ c.word (.wsym c.op1 c.op2)
  | 0x11 => decodeFormatZ c.word (.rsym c.op1)
  | 0x20 => decodeFormatC c.word fun r => .ok (.csrr r)
  | 0x21 => decodeFormatC c.word (decodeCsrw c.op1)
  | _ => .error .unassignedOpcode

/-- The command of an instruction: the word of the opcode map (30_encoding.md R94), the operands on
their lanes, 0 on a lane the command does not read (30_encoding.md R109). -/
def encode : Instr → Command
  | .mulW a b => ⟨0x01000000, a, b⟩
  | .mulN a b => ⟨0x01800000, a, b⟩
  | .initW => ⟨0x02000000, 0, 0⟩
  | .initN => ⟨0x02800000, 0, 0⟩
  | .buildW n => ⟨0x03000000, n, 0⟩
  | .buildN n => ⟨0x03800000, n, 0⟩
  | .gethW l r => ⟨0x04000000, l, r⟩
  | .gethN l r => ⟨0x04800000, l, r⟩
  | .revhW l r => ⟨0x05000000, l, r⟩
  | .revhN l r => ⟨0x05800000, l, r⟩
  | .rdpowW i => ⟨0x06000000, i, 0⟩
  | .rdpowN i => ⟨0x06800000, i, 0⟩
  | .rdpreW i => ⟨0x07000000, i, 0⟩
  | .rdpreN i => ⟨0x07800000, i, 0⟩
  | .rdsufW i => ⟨0x08000000, i, 0⟩
  | .rdsufN i => ⟨0x08800000, i, 0⟩
  | .wsym k s => ⟨0x10000000, k, s⟩
  | .rsym k => ⟨0x11000000, k, 0⟩
  | .csrr r => ⟨BitVec.ofNat 32 (0x20000000 + csrNumber r), 0, 0⟩
  | .csrw r v => ⟨BitVec.ofNat 32 (0x21000000 + csrNumber r), v, 0⟩

/-- Which operand lanes a command reads, `op1` then `op2` (30_encoding.md R94, columns op1 and op2). -/
def Instr.lanesRead : Instr → Bool × Bool
  | .mulW _ _ => (true, true)
  | .mulN _ _ => (true, true)
  | .initW => (false, false)
  | .initN => (false, false)
  | .buildW _ => (true, false)
  | .buildN _ => (true, false)
  | .gethW _ _ => (true, true)
  | .gethN _ _ => (true, true)
  | .revhW _ _ => (true, true)
  | .revhN _ _ => (true, true)
  | .rdpowW _ => (true, false)
  | .rdpowN _ => (true, false)
  | .rdpreW _ => (true, false)
  | .rdpreN _ => (true, false)
  | .rdsufW _ => (true, false)
  | .rdsufN _ => (true, false)
  | .wsym _ _ => (true, true)
  | .rsym _ => (true, false)
  | .csrr _ => (false, false)
  | .csrw _ _ => (true, false)

/-- A command laid out as one number: the word is bits 31..0, `op1` bits 95..32, `op2` bits 159..96.
No byte order is observable (20_memory.md R61). Log entry 1. -/
def commandOfBits (bits : Nat) : Command :=
  { word := BitVec.ofNat 32 bits
    op1 := BitVec.ofNat 64 (bits / 2 ^ 32)
    op2 := BitVec.ofNat 64 (bits / 2 ^ 96) }

/-- What the decoder reads from an instruction whose low `nbits` bits are `w` and whose other bits
are 0. -/
def decodeTableWord (nbits w : Nat) : Option Instr :=
  match decode (commandOfBits (w % 2 ^ nbits)) with
  | .ok i => some i
  | .error _ => none

end Sys2Proof
end

