-- ==== Sys2Proof/Config.lean ====
section
/-! DEFINITION. What is fixed for the machine and is not state (10_state.md R43 note c), and the free
values: what the spec leaves open, as constants without a body, so that every statement about the
model holds whatever they are. -/

namespace Sys2Proof

/-- `M_W = 2^61 - 1`, the wide modulus (00_scope.md R6). -/
def Config.mW : Nat := 2305843009213693951

/-- `M_N = 998244353`, the narrow modulus (00_scope.md R7). -/
def Config.mN : Nat := 998244353

/-- `OFFSET_W`, added to every symbol of the wide hash (00_scope.md R8). -/
def Config.offsetW : Nat := 997

/-- `OFFSET_N`, the synthesis-time narrow offset, 0 (00_scope.md R8). -/
def Config.offsetN : Nat := 0

/-- The value of the parameter `MAXLEN` for this hardware (00_scope.md R9). Only `State.reset` uses it:
the rules take the parameter from the state. Log entry 9. -/
def Config.maxLen : BitVec 32 := 1000000

/-- `MID_LO = floor(M_W / 3)`, the least wide base (00_scope.md R10). -/
def Config.midLo : Nat := 768614336404564650

/-- `CORE_ID`, the value of the `ID` register (10_state.md R24). -/
def Config.coreId : Lane := 0x4D36314800070001

/-- FREE VALUE: the open parameter `BASE_N`, any number below `M_N` (00_scope.md R11). Log entry 7. -/
opaque Config.baseNValue : Fin 998244353

/-- `BASE_N` as the 30-bit number the narrow slice multiplies by (10_state.md R28). -/
def Config.baseN : NarrowEntry := BitVec.ofNat 30 Config.baseNValue.val

/-- FREE VALUE: the open parameter `SEED_RESET`, any 64-bit value (00_scope.md R11). Log entry 3. -/
opaque Config.seedReset : Lane

/-- FREE VALUE: what `sym[k]` holds after the reset numbered by the first argument, until it is
written (93_implementation_defined.md U1). Log entry 4. -/
opaque Config.unwrittenSym : Nat → Nat → Symbol

/-- FREE VALUE: what `pow_w[i]` holds while `init_w = 0` (93_implementation_defined.md U2). Log entry 5. -/
opaque Config.unbuiltPowW : Nat → Nat → WideEntry

/-- FREE VALUE: what `pow_n[i]` holds while `init_n = 0` (93_implementation_defined.md U2). Log entry 5. -/
opaque Config.unbuiltPowN : Nat → Nat → NarrowEntry

end Sys2Proof
end

