-- ==== Sys2Proof/Machine/Arith.lean ====
section
/-! DEFINITION. The arithmetic of the two slices on natural numbers, computed exactly and narrowed
where it is stored (00_scope.md R12), and the 64-bit datapath of 40_modmul_wide.md R122. -/

namespace Sys2Proof.Machine

open Sys2Proof

/-- The wide product, by its contract (40_modmul_wide.md R121). Log entry 11. -/
def mulWide (a b : Nat) : Nat := a * b % Config.mW

/-- The narrow product: one widened multiplication, one remainder (42_modmul_narrow.md R161). -/
def mulNarrow (a b : Nat) : Nat := a * b % Config.mN

/-- One conditional subtraction of the modulus (41_rollhash_wide.md R141). -/
def condSub (m t : Nat) : Nat := if m ≤ t then t - m else t

/-- `p - q`, brought back into `[0, m)` by one conditional add (41_rollhash_wide.md R142). -/
def subMod (m p q : Nat) : Nat := if q ≤ p then p - q else p + m - q

/-- The wide recurrence: the next accumulator from the last one and a symbol (41_rollhash_wide.md R141). -/
def hashStepWide (base acc x : Nat) : Nat :=
  condSub Config.mW (mulWide acc base + x + Config.offsetW)

/-- The narrow recurrence, with a true remainder (43_rollhash_narrow.md R176). -/
def hashStepNarrow (base acc x : Nat) : Nat :=
  (mulNarrow acc base + x + Config.offsetN) % Config.mN

/-- The accumulators of a walk over a sequence, the starting one first. -/
def accumulate (step : Nat → Nat → Nat) (acc : Nat) : List Nat → List Nat
  | [] => [acc]
  | x :: xs => acc :: accumulate step (step acc x) xs

/-- The prefix accumulators: the walk forward from the empty accumulator 0 (41_rollhash_wide.md R141). -/
def prefixAccs (step : Nat → Nat → Nat) (xs : List Nat) : List Nat := accumulate step 0 xs

/-- The suffix accumulators: the walk backward from the empty accumulator 0, which stands last
(41_rollhash_wide.md R141, 43_rollhash_narrow.md R176). -/
def suffixAccs (step : Nat → Nat → Nat) (xs : List Nat) : List Nat :=
  (accumulate step 0 xs.reverse).reverse

/-- The wide base a seed gives (40_modmul_wide.md R124). -/
def deriveBase (seed : Lane) : WideEntry :=
  BitVec.ofNat 61 (Config.midLo + seed.toNat % Config.midLo)

/-- `M_W` as the 64-bit mask of the datapath (40_modmul_wide.md R122). -/
def maskW : Lane := 0x1FFFFFFFFFFFFFFF

/-- One shift-and-mask reduction pass (40_modmul_wide.md R122). -/
def foldPass (acc : Lane) : Lane := (acc &&& maskW) + (acc >>> 61)

/-- The partial products `l`, `m`, `h` of the datapath, each a 64-bit value (40_modmul_wide.md R122). -/
def partialProducts (a b : Lane) : Lane × Lane × Lane :=
  let la := a &&& 0xFFFFFFFF
  let ha := a >>> 32
  let lb := b &&& 0xFFFFFFFF
  let hb := b >>> 32
  (la * lb, la * hb + lb * ha, ha * hb)

/-- The biased sum of the five folded terms (40_modmul_wide.md R122). -/
def biasedSum (a b : Lane) : Lane :=
  let (l, m, h) := partialProducts a b
  (l &&& maskW) + (l >>> 61) + ((m &&& 0x1FFFFFFF) <<< 32) + (m >>> 29) + (h <<< 3) + 1

/-- The split-fold datapath of the wide multiplier, all in 64-bit unsigned arithmetic: biased sum,
two passes, bias removed (40_modmul_wide.md R122). The command uses the contract `mulWide`. -/
def mulWideDatapath (a b : Lane) : Lane := foldPass (foldPass (biasedSum a b)) - 1

end Sys2Proof.Machine
end

