-- ==== Sys2Proof/Machine/State.lean ====
section
/-! DEFINITION. The state of algo-CORE as plain data: every row of the table of 10_state.md R43, and
four fields of the model's own (the parameter `MAXLEN`, the host's pending events, the responses
delivered, the number of resets), which stand in for what 10_state.md R43 note c and R44 put outside
the architectural state. -/

namespace Sys2Proof.Machine

/-- The symbol buffer: the entries written since reset as (index, symbol) pairs, indices strictly
rising (10_state.md R34; `Memory.wf` in Ops). An unlisted index has not been written since reset. -/
abbrev Memory := List (Nat × Symbol)

/-- A power table (10_state.md R35, R36): its contents are unspecified, or entry `i` is `base^i`
modulo the slice's prime for every index. 93_implementation_defined.md U2 lets a model hold a table
as a function of the base, or as an option type. Log entry 6. -/
inductive PowTable (w : Nat) where
  | unspecified
  | built (base : BitVec w)
deriving DecidableEq, Repr

/-- The arrays whose entries a rule can look for and not find, by the spec's names (00_scope.md R13). -/
inductive ArrayName where
  | powW | powN | preW | sufW | preN | sufN
deriving DecidableEq, Repr

/-- How the machine can stop. The spec's failures are statuses of a response and no stops
(60_exceptions.md R221). -/
inductive Fault where
  /-- Raised by `withEntry` when a rule reads entry `index` of an array that has no such entry.
  20_memory.md R65 says that no command ever does, so only a state that no run reaches raises it.
  SAFE: the model stops where the spec says nothing. Log entry 8. -/
  | absentEntry (array : ArrayName) (index : Nat)
deriving DecidableEq, Repr

/-- Why a step gives an instruction no meaning. -/
inductive Refusal where
  /-- Raised by nobody: every command of the opcode table has its meaning. It would be SAFE: the
  model stops where the hardware goes on. -/
  | notModelled (mnemonic : String)
deriving DecidableEq, Repr

structure State where
  /-- `seed`, the `SEED` register (10_state.md R26). -/
  seed : Lane
  /-- `init_w`: the wide base is derived and the wide table filled (10_state.md R22). -/
  initW : Bool
  /-- `init_n`: the narrow table is filled (10_state.md R22). -/
  initN : Bool
  /-- `base_w`, the wide base (10_state.md R27). -/
  baseW : WideEntry
  /-- `pow_w[0 .. MAXLEN-1]` (10_state.md R35). -/
  powW : PowTable 61
  /-- `pow_n[0 .. MAXLEN-1]` (10_state.md R36). -/
  powN : PowTable 30
  /-- `sym[0 .. MAXLEN-1]` (10_state.md R34). -/
  sym : Memory
  /-- `n_w`, the length of the wide instance (10_state.md R29). -/
  nW : BitVec 32
  /-- `pre_w[0 .. n_w]`, entry 0 first (10_state.md R37). -/
  preW : List WideEntry
  /-- `suf_w[1 .. n_w+1]`, entry 1 first; there is no entry 0 (10_state.md R38). -/
  sufW : List WideEntry
  /-- `n_n`, the length of the narrow instance (10_state.md R30). -/
  nN : BitVec 32
  /-- `pre_n[0 .. n_n]`, entry 0 first (10_state.md R39). -/
  preN : List NarrowEntry
  /-- `suf_n[0 .. n_n]`, entry 0 first (10_state.md R40). -/
  sufN : List NarrowEntry
  /-- The model's own: the parameter `MAXLEN`, `1 <= MAXLEN < 2^32` (00_scope.md R9), which no command
  and no reset changes (10_state.md R31). Log entry 9. -/
  maxLen : BitVec 32
  /-- The model's own: how many resets there have been, which selects the unspecified contents
  (93_implementation_defined.md U1, U2). Log entry 4. -/
  epoch : Nat
  /-- The model's own: what the host does next, oldest first (30_encoding.md R90). Log entry 1. -/
  inputs : List HostEvent
  /-- The model's own: the responses delivered, newest first (30_encoding.md R90). Log entry 2. -/
  responses : List Response
deriving DecidableEq, Repr

/-- The reset state of 10_state.md R43 and 70_reset_and_hazards.md R240: each slice holds the instance
of the empty sequence; `strap` is the value sampled from `seed_strap`, `maxLen` the parameter `MAXLEN`,
`epoch` the model's count of resets; no event is pending and no response has been delivered. -/
def State.resetWith (strap : Lane) (maxLen : BitVec 32) (epoch : Nat) : State :=
  { seed := strap
    initW := false
    initN := false
    baseW := 0
    powW := .unspecified
    powN := .unspecified
    sym := []
    nW := 0
    preW := [0]
    sufW := [0]
    nN := 0
    preN := [0]
    sufN := [0]
    maxLen := maxLen
    epoch := epoch
    inputs := []
    responses := [] }

/-- The machine right after reset (70_reset_and_hazards.md R240), with this hardware's `MAXLEN`. -/
def State.reset : State := State.resetWith Config.seedReset Config.maxLen 0

end Sys2Proof.Machine
end

