-- ==== Sys2Proof/Machine/Ops.lean ====
section
/-! DEFINITION. The named operations over state that the commands share: answering, failing, reading
and writing the arrays, the one-time initialisations, replacing an instance, reset. -/

namespace Sys2Proof.Machine

open Sys2Proof

/-- The outcome of one command or step. -/
abbrev Result := Host.Outcome State Fault Refusal

/-- Deliver a response (00_scope.md R13 `respond`; 30_encoding.md R96). -/
def respond (st : Status) (v : Lane) (s : State) : State :=
  { s with responses := ⟨st, v⟩ :: s.responses }

/-- Finish a command with `OK` and a value. -/
def answer (v : Lane) (s : State) : Result := .next (respond .ok v s)

/-- TAKING A FAILURE, the block's whole exception mechanism (00_scope.md R13 `raise`;
60_exceptions.md R211, R212, R221): the response carries the status and the value 0, and nothing
else changes. There is no return from it (60_exceptions.md R222). -/
def raiseStatus (st : Status) (s : State) : Result := .next (respond st 0 s)

/-! ### The symbol buffer -/

/-- The canonical form of the symbol buffer: indices strictly rising. -/
abbrev Memory.wf (m : Memory) : Prop := (m.map Prod.fst).Pairwise (· < ·)

/-- Every index written lies below a bound, `MAXLEN` (10_state.md R33). -/
abbrev Memory.below (m : Memory) (bound : Nat) : Prop := ∀ c ∈ m, c.1 < bound

/-- The entry written at an index since reset, if any. -/
def Memory.lookup (k : Nat) : Memory → Option Symbol
  | [] => none
  | (j, v) :: m => if j = k then some v else Memory.lookup k m

/-- Write one whole entry (00_scope.md R13 `MemWrite`), keeping the indices rising. -/
def Memory.insert (k : Nat) (v : Symbol) : Memory → Memory
  | [] => [(k, v)]
  | (j, x) :: m =>
    if k < j then (k, v) :: (j, x) :: m
    else if k = j then (k, v) :: m
    else (j, x) :: Memory.insert k v m

/-- What an index that was not written since reset reads as: its free value
(93_implementation_defined.md U1). -/
def unlistedSym (s : State) (k : Nat) : Symbol := Config.unwrittenSym s.epoch k

/-- `sym[k]` (10_state.md R34). -/
def symAt (s : State) (k : Nat) : Symbol := (s.sym.lookup k).getD (unlistedSym s k)

/-- `sym[k] <- v` (44_host_access.md R196). -/
def writeSym (k : Nat) (v : Symbol) (s : State) : State := { s with sym := s.sym.insert k v }

/-- The numbers `sym[0], …, sym[n-1]`, which a `BUILD n` reads (20_memory.md R66). -/
def symbols (s : State) (n : Nat) : List Nat := (List.range n).map fun k => (symAt s k).toNat

/-! ### The tables and the instances -/

/-- Entry `i` of a power table modulo `m`: `base^i mod m`, or the free value while it is not built
(10_state.md R33, R35, R36). -/
def tableEntry {w : Nat} (m : Nat) (free : Nat → BitVec w) (t : PowTable w) (i : Nat) : BitVec w :=
  match t with
  | .unspecified => free i
  | .built base => BitVec.ofNat w (base.toNat ^ i % m)

/-- `pow_w[i]`, indices `0 .. MAXLEN-1` (10_state.md R33). -/
def powWAt (s : State) (i : Nat) : Option WideEntry :=
  if i < s.maxLen.toNat then some (tableEntry Config.mW (Config.unbuiltPowW s.epoch) s.powW i) else none

/-- `pow_n[i]`, indices `0 .. MAXLEN-1` (10_state.md R33). -/
def powNAt (s : State) (i : Nat) : Option NarrowEntry :=
  if i < s.maxLen.toNat then some (tableEntry Config.mN (Config.unbuiltPowN s.epoch) s.powN i) else none

/-- `pre_w[i]`, indices `0 .. n_w` (10_state.md R37). -/
def preWAt (s : State) (i : Nat) : Option WideEntry := s.preW[i]?

/-- `suf_w[i]`, indices `1 .. n_w+1`: there is no entry 0 (10_state.md R38). -/
def sufWAt (s : State) : Nat → Option WideEntry
  | 0 => none
  | i + 1 => s.sufW[i]?

/-- `pre_n[i]`, indices `0 .. n_n` (10_state.md R39). -/
def preNAt (s : State) (i : Nat) : Option NarrowEntry := s.preN[i]?

/-- `suf_n[i]`, indices `0 .. n_n` (10_state.md R40). -/
def sufNAt (s : State) (i : Nat) : Option NarrowEntry := s.sufN[i]?

/-- Go on with an entry, or stop by name where the array has none (20_memory.md R65 says that this
never happens). -/
def withEntry {w : Nat} (array : ArrayName) (i : Nat) (entry : Option (BitVec w))
    (k : BitVec w → Result) : Result :=
  match entry with
  | some v => k v
  | none => .fault (.absentEntry array i)

/-- Answer with an entry, zero-extended to the response's 64 bits (20_memory.md R63). -/
def answerEntry {w : Nat} (array : ArrayName) (i : Nat) (entry : Option (BitVec w)) (s : State) :
    Result :=
  withEntry array i entry fun v => answer (v.setWidth 64) s

/-! ### Initialisation and construction -/

/-- The writes of the first wide initialisation (40_modmul_wide.md R124). -/
def fillWide (s : State) : State :=
  { s with baseW := deriveBase s.seed, powW := .built (deriveBase s.seed), initW := true }

/-- `InitW()`: nothing when the flag is set (40_modmul_wide.md R124). -/
def initWide (s : State) : State := if s.initW then s else fillWide s

/-- The writes of the first narrow initialisation (42_modmul_narrow.md R163). -/
def fillNarrow (s : State) : State := { s with powN := .built Config.baseN, initN := true }

/-- `InitN()`: nothing when the flag is set (42_modmul_narrow.md R163). -/
def initNarrow (s : State) : State := if s.initN then s else fillNarrow s

/-- Replace the wide instance whole (10_state.md R41). -/
def setWide (n : Nat) (p q : List Nat) (s : State) : State :=
  { s with nW := BitVec.ofNat 32 n, preW := p.map (BitVec.ofNat 61), sufW := q.map (BitVec.ofNat 61) }

/-- Replace the narrow instance whole (10_state.md R41). -/
def setNarrow (n : Nat) (p q : List Nat) (s : State) : State :=
  { s with nN := BitVec.ofNat 32 n, preN := p.map (BitVec.ofNat 30), sufN := q.map (BitVec.ofNat 30) }

/-- The writes of a successful `BUILD.W n` (41_rollhash_wide.md R141). -/
def buildWide (n : Nat) (s : State) : State :=
  let t := initWide s
  let step := hashStepWide t.baseW.toNat
  setWide n (prefixAccs step (symbols t n)) (suffixAccs step (symbols t n)) t

/-- The writes of a successful `BUILD.N n` (43_rollhash_narrow.md R176). -/
def buildNarrow (n : Nat) (s : State) : State :=
  let t := initNarrow s
  let step := hashStepNarrow Config.baseN.toNat
  setNarrow n (prefixAccs step (symbols t n)) (suffixAccs step (symbols t n)) t

/-! ### Control registers and reset -/

/-- `seed <- v` (44_host_access.md R200). -/
def writeSeed (v : Lane) (s : State) : State := { s with seed := v }

/-- Reset with the given value on `seed_strap` (70_reset_and_hazards.md R240, R242): every row of
10_state.md R43 takes its reset value; the parameter `MAXLEN`, what the host has still to send and what
it has received are not the block's state and stay. -/
def hostReset (strap : Lane) (s : State) : State :=
  { State.resetWith strap s.maxLen (s.epoch + 1) with inputs := s.inputs, responses := s.responses }

end Sys2Proof.Machine
end

