-- ==== Sys2Proof/Machine/Flags.lean ====
section
/-! DEFINITION. The two status flags as the `STATUS` register shows them, the status codes, and the
control registers as `CSRR` reads them. No arithmetic command writes a flag (10_state.md R22). -/

namespace Sys2Proof.Machine

open Sys2Proof

/-- The 4-bit code of a status (60_exceptions.md R210). -/
def statusCode : Status → BitVec 4
  | .ok => 0
  | .capacityExceeded => 1
  | .indexOutOfRange => 2
  | .illegalCommand => 3
  | .operandRange => 4
  | .notInitialised => 5

/-- `STATUS`: bit 0 `init_w`, bit 1 `init_n`, the others 0 (10_state.md R25). -/
def statusRegister (s : State) : Lane := BitVec.ofNat 64 (s.initW.toNat + 2 * s.initN.toNat)

/-- The contents of a control register (10_state.md R24 to R31). -/
def csrValue (s : State) : Csr → Lane
  | .id => Config.coreId
  | .status => statusRegister s
  | .seed => s.seed
  | .baseW => s.baseW.setWidth 64
  | .baseN => Config.baseN.setWidth 64
  | .lenW => s.nW.setWidth 64
  | .lenN => s.nN.setWidth 64
  | .maxLen => s.maxLen.setWidth 64

end Sys2Proof.Machine
end

