-- ==== Sys2Proof/Machine/Operands.lean ====
section
/-! DEFINITION. The operand forms: how a command checks the lanes it reads. Every lane is a whole
64-bit unsigned integer, checked before it is used and never truncated (30_encoding.md R95,
20_memory.md R63, R65). -/

namespace Sys2Proof.Machine

open Sys2Proof

/-- The lane is a wide field element (40_modmul_wide.md R120). -/
abbrev isWideElement (a : Lane) : Prop := a.toNat < Config.mW

/-- The lane is a narrow field element (42_modmul_narrow.md R160). -/
abbrev isNarrowElement (a : Lane) : Prop := a.toNat < Config.mN

/-- The lane fits a symbol (44_host_access.md R196). -/
abbrev fitsSymbol (v : Lane) : Prop := v.toNat < 2 ^ 32

/-- The lane is an index of `sym` or of a power table, or a length that a `BUILD` accepts
(20_memory.md R65, 60_exceptions.md R213). -/
abbrev belowMaxLen (s : State) (k : Lane) : Prop := k.toNat < s.maxLen.toNat

/-- The closed range `[l, r]` lies inside an instance of length `n` (20_memory.md R65). -/
abbrev isRange (l r : Lane) (n : BitVec 32) : Prop := l.toNat ≤ r.toNat ∧ r.toNat < n.toNat

end Sys2Proof.Machine
end

