-- ==== Sys2Proof/Machine/HostAccess.lean ====
section
/-! DEFINITION. The commands of 44_host_access.md: `WSYM`, `RSYM`, `CSRR`, `CSRW`. -/

namespace Sys2Proof.Machine

open Sys2Proof

/-- `WSYM k, v` (44_host_access.md R196): `OPERAND_RANGE` before `INDEX_OUT_OF_RANGE`. -/
def execWsym (k v : Lane) (s : State) : Result :=
  if ¬ fitsSymbol v then raiseStatus .operandRange s
  else if belowMaxLen s k then answer 0 (writeSym k.toNat (v.setWidth 32) s)
  else raiseStatus .indexOutOfRange s

/-- `RSYM k` (44_host_access.md R197): an entry not written since reset reads as its free value. -/
def execRsym (k : Lane) (s : State) : Result :=
  if belowMaxLen s k then answer ((symAt s k.toNat).setWidth 64) s
  else raiseStatus .indexOutOfRange s

/-- `CSRR r` (44_host_access.md R199). -/
def execCsrr (r : Csr) (s : State) : Result := answer (csrValue s r) s

/-- `CSRW r, v` (44_host_access.md R200). Decode has refused every register but `SEED`; on the terms
it never gives, the meaning is what 10_state.md R23 says of a write to a read-only register. -/
def execCsrw (r : Csr) (v : Lane) (s : State) : Result :=
  if r.writable then answer 0 (writeSeed v s) else raiseStatus .illegalCommand s

end Sys2Proof.Machine
end

