-- ==== Sys2Proof/Machine/ModmulNarrow.lean ====
section
/-! DEFINITION. The commands of 42_modmul_narrow.md: `MUL.N`, `INIT.N`, `RDPOW.N`. -/

namespace Sys2Proof.Machine

open Sys2Proof

/-- `MUL.N a, b` (42_modmul_narrow.md R162). -/
def execMulN (a b : Lane) (s : State) : Result :=
  if isNarrowElement a ∧ isNarrowElement b then
    answer (BitVec.ofNat 64 (mulNarrow a.toNat b.toNat)) s
  else raiseStatus .operandRange s

/-- `INIT.N` (42_modmul_narrow.md R164). -/
def execInitN (s : State) : Result := answer (Config.baseN.setWidth 64) (initNarrow s)

/-- `RDPOW.N i` (42_modmul_narrow.md R165): `NOT_INITIALISED` before `INDEX_OUT_OF_RANGE`. -/
def execRdpowN (i : Lane) (s : State) : Result :=
  if s.initN = false then raiseStatus .notInitialised s
  else if belowMaxLen s i then answerEntry .powN i.toNat (powNAt s i.toNat) s
  else raiseStatus .indexOutOfRange s

end Sys2Proof.Machine
end

