-- ==== Sys2Proof/Machine/ModmulWide.lean ====
section
/-! DEFINITION. The commands of 40_modmul_wide.md: `MUL.W`, `INIT.W`, `RDPOW.W`. -/

namespace Sys2Proof.Machine

open Sys2Proof

/-- `MUL.W a, b` (40_modmul_wide.md R123). -/
def execMulW (a b : Lane) (s : State) : Result :=
  if isWideElement a ∧ isWideElement b then
    answer (BitVec.ofNat 64 (mulWide a.toNat b.toNat)) s
  else raiseStatus .operandRange s

/-- `INIT.W` (40_modmul_wide.md R125). -/
def execInitW (s : State) : Result := answer ((initWide s).baseW.setWidth 64) (initWide s)

/-- `RDPOW.W i` (40_modmul_wide.md R126): `NOT_INITIALISED` before `INDEX_OUT_OF_RANGE`. -/
def execRdpowW (i : Lane) (s : State) : Result :=
  if s.initW = false then raiseStatus .notInitialised s
  else if belowMaxLen s i then answerEntry .powW i.toNat (powWAt s i.toNat) s
  else raiseStatus .indexOutOfRange s

end Sys2Proof.Machine
end

