-- ==== Sys2Proof/Machine/RollhashNarrow.lean ====
section
/-! DEFINITION. The commands of 43_rollhash_narrow.md: `BUILD.N`, `GETH.N`, `REVH.N`, `RDPRE.N`,
`RDSUF.N`. -/

namespace Sys2Proof.Machine

open Sys2Proof

/-- The value a narrow query answers (43_rollhash_narrow.md R177, R178). -/
def narrowQuery (p g q : NarrowEntry) : Lane :=
  BitVec.ofNat 64 (subMod Config.mN p.toNat (mulNarrow g.toNat q.toNat))

/-- `BUILD.N n` (43_rollhash_narrow.md R176): the capacity check comes before any write. -/
def execBuildN (n : Lane) (s : State) : Result :=
  if belowMaxLen s n then answer 0 (buildNarrow n.toNat s) else raiseStatus .capacityExceeded s

/-- `GETH.N l, r` (43_rollhash_narrow.md R177). -/
def execGethN (l r : Lane) (s : State) : Result :=
  if isRange l r s.nN then
    withEntry .preN (r.toNat + 1) (preNAt s (r.toNat + 1)) fun p =>
    withEntry .powN (r.toNat - l.toNat + 1) (powNAt s (r.toNat - l.toNat + 1)) fun g =>
    withEntry .preN l.toNat (preNAt s l.toNat) fun q =>
    answer (narrowQuery p g q) s
  else raiseStatus .indexOutOfRange s

/-- `REVH.N l, r` (43_rollhash_narrow.md R178): the suffix indices are one below the wide slice's. -/
def execRevhN (l r : Lane) (s : State) : Result :=
  if isRange l r s.nN then
    withEntry .sufN l.toNat (sufNAt s l.toNat) fun p =>
    withEntry .powN (r.toNat - l.toNat + 1) (powNAt s (r.toNat - l.toNat + 1)) fun g =>
    withEntry .sufN (r.toNat + 1) (sufNAt s (r.toNat + 1)) fun q =>
    answer (narrowQuery p g q) s
  else raiseStatus .indexOutOfRange s

/-- `RDPRE.N i` (43_rollhash_narrow.md R179). -/
def execRdpreN (i : Lane) (s : State) : Result :=
  if i.toNat ≤ s.nN.toNat then answerEntry .preN i.toNat (preNAt s i.toNat) s
  else raiseStatus .indexOutOfRange s

/-- `RDSUF.N i` (43_rollhash_narrow.md R180): index 0 is legal and `n_n + 1` is not. -/
def execRdsufN (i : Lane) (s : State) : Result :=
  if i.toNat ≤ s.nN.toNat then answerEntry .sufN i.toNat (sufNAt s i.toNat) s
  else raiseStatus .indexOutOfRange s

end Sys2Proof.Machine
end

