-- ==== Sys2Proof/Machine/RollhashWide.lean ====
section
/-! DEFINITION. The commands of 41_rollhash_wide.md: `BUILD.W`, `GETH.W`, `REVH.W`, `RDPRE.W`,
`RDSUF.W`. -/

namespace Sys2Proof.Machine

open Sys2Proof

/-- The value a wide query answers from the accumulator `p` at the range's far end, the power `g` and
the accumulator `q` before its near end (41_rollhash_wide.md R142, R143). -/
def wideQuery (p g q : WideEntry) : Lane :=
  BitVec.ofNat 64 (subMod Config.mW p.toNat (mulWide g.toNat q.toNat))

/-- `BUILD.W n` (41_rollhash_wide.md R141): the capacity check comes before any write. -/
def execBuildW (n : Lane) (s : State) : Result :=
  if belowMaxLen s n then answer 0 (buildWide n.toNat s) else raiseStatus .capacityExceeded s

/-- `GETH.W l, r` (41_rollhash_wide.md R142). -/
def execGethW (l r : Lane) (s : State) : Result :=
  if isRange l r s.nW then
    withEntry .preW (r.toNat + 1) (preWAt s (r.toNat + 1)) fun p =>
    withEntry .powW (r.toNat - l.toNat + 1) (powWAt s (r.toNat - l.toNat + 1)) fun g =>
    withEntry .preW l.toNat (preWAt s l.toNat) fun q =>
    answer (wideQuery p g q) s
  else raiseStatus .indexOutOfRange s

/-- `REVH.W l, r` (41_rollhash_wide.md R143). -/
def execRevhW (l r : Lane) (s : State) : Result :=
  if isRange l r s.nW then
    withEntry .sufW (l.toNat + 1) (sufWAt s (l.toNat + 1)) fun p =>
    withEntry .powW (r.toNat - l.toNat + 1) (powWAt s (r.toNat - l.toNat + 1)) fun g =>
    withEntry .sufW (r.toNat + 2) (sufWAt s (r.toNat + 2)) fun q =>
    answer (wideQuery p g q) s
  else raiseStatus .indexOutOfRange s

/-- `RDPRE.W i` (41_rollhash_wide.md R144). -/
def execRdpreW (i : Lane) (s : State) : Result :=
  if i.toNat ≤ s.nW.toNat then answerEntry .preW i.toNat (preWAt s i.toNat) s
  else raiseStatus .indexOutOfRange s

/-- `RDSUF.W i` (41_rollhash_wide.md R145): index 0 is out of range. -/
def execRdsufW (i : Lane) (s : State) : Result :=
  if 1 ≤ i.toNat ∧ i.toNat ≤ s.nW.toNat + 1 then answerEntry .sufW i.toNat (sufWAt s i.toNat) s
  else raiseStatus .indexOutOfRange s

end Sys2Proof.Machine
end

