-- ==== Sys2Proof/Machine/Dispatch.lean ====
section
/-! DEFINITION. What each command does: one arm per constructor of `Instr`, each a direct call of its
meaning. -/

namespace Sys2Proof.Machine

open Sys2Proof

def exec (i : Instr) (s : State) : Host.Outcome State Fault Refusal :=
  match i with
  | .mulW a b => Sys2Proof.Machine.execMulW a b s
  | .mulN a b => Sys2Proof.Machine.execMulN a b s
  | .initW => Sys2Proof.Machine.execInitW s
  | .initN => Sys2Proof.Machine.execInitN s
  | .buildW n => Sys2Proof.Machine.execBuildW n s
  | .buildN n => Sys2Proof.Machine.execBuildN n s
  | .gethW l r => Sys2Proof.Machine.execGethW l r s
  | .gethN l r => Sys2Proof.Machine.execGethN l r s
  | .revhW l r => Sys2Proof.Machine.execRevhW l r s
  | .revhN l r => Sys2Proof.Machine.execRevhN l r s
  | .rdpowW k => Sys2Proof.Machine.execRdpowW k s
  | .rdpowN k => Sys2Proof.Machine.execRdpowN k s
  | .rdpreW k => Sys2Proof.Machine.execRdpreW k s
  | .rdpreN k => Sys2Proof.Machine.execRdpreN k s
  | .rdsufW k => Sys2Proof.Machine.execRdsufW k s
  | .rdsufN k => Sys2Proof.Machine.execRdsufN k s
  | .wsym k v => Sys2Proof.Machine.execWsym k v s
  | .rsym k => Sys2Proof.Machine.execRsym k s
  | .csrr r => Sys2Proof.Machine.execCsrr r s
  | .csrw r v => Sys2Proof.Machine.execCsrw r v s

end Sys2Proof.Machine
end

