-- ==== Sys2Proof/Machine/Engine.lean ====
section
/-! DEFINITION. How the command engine takes one event of the host: the operations `step` calls. -/

namespace Sys2Proof.Machine

open Sys2Proof

/-- Execute one command: decode it and run its rule; an illegal word is answered `ILLEGAL_COMMAND` and
changes nothing (30_encoding.md R100, R101; 60_exceptions.md R216). -/
def runCommand (c : Command) (s : State) : Result :=
  match decode c with
  | .ok i => exec i s
  | .error _ => raiseStatus .illegalCommand s

/-- Take one event. A reset asserted during a command abandons it: no response, none of its writes
(70_reset_and_hazards.md R241). -/
def runEvent (e : HostEvent) (s : State) : Result :=
  match e with
  | .command c => runCommand c s
  | .reset strap => .next (hostReset strap s)
  | .resetDuring _ strap => .next (hostReset strap s)

/-- Remove the oldest pending event, which the engine has taken. -/
def dropInput (s : State) : State := { s with inputs := s.inputs.tail }

/-- One step of the engine: events are taken in the order of arrival (20_memory.md R71); with none
pending the block holds its state and does nothing (60_exceptions.md R225). -/
def stepEngine (s : State) : Result :=
  match s.inputs with
  | [] => .next s
  | e :: _ => runEvent e (dropInput s)

/-- The host presents a command, which the engine takes next (30_encoding.md R90). -/
def presentCommand (c : Command) (s : State) : State :=
  { s with inputs := .command c :: s.inputs }

end Sys2Proof.Machine
end

