-- ==== Sys2Proof/Machine/Step.lean ====
section
/-! DEFINITION. The step of the machine, and how an instruction's bits are presented to it. -/

namespace Sys2Proof.Machine

open Sys2Proof

/-- One step: one event of the host (00_scope.md R14, 20_memory.md R70). -/
def step (s : State) : Host.Outcome State Fault Refusal := stepEngine s

/-- `s` with the instruction whose low `nbits` bits are `w`, its other bits 0, presented so that the
next step takes it. The block fetches nothing (10_state.md R21): this stands for the host's act of
presenting a command. Log entry 1. -/
def State.withFetchWord (s : State) (nbits w : Nat) : State :=
  presentCommand (commandOfBits (w % 2 ^ nbits)) s

end Sys2Proof.Machine
end

