-- ==== Sys2Proof/Machine/Pseudo.lean ====
section
/-! DEFINITION. The pseudo-instructions of 30_encoding.md R110: host-side expansions into commands. -/

namespace Sys2Proof.Machine

open Sys2Proof

/-- `WSYM k, s0`; `WSYM k+1, s1`; … -/
def writeSeqFrom (k : Nat) : List Lane → List Instr
  | [] => []
  | s :: rest => .wsym (BitVec.ofNat 64 k) s :: writeSeqFrom (k + 1) rest

/-- `BUILDSEQ.W [s0, …]` (30_encoding.md R110). -/
def buildSeqW (xs : List Lane) : List Instr :=
  writeSeqFrom 0 xs ++ [.buildW (BitVec.ofNat 64 xs.length)]

/-- `BUILDSEQ.N [s0, …]` (30_encoding.md R110). -/
def buildSeqN (xs : List Lane) : List Instr :=
  writeSeqFrom 0 xs ++ [.buildN (BitVec.ofNat 64 xs.length)]

/-- The character codes of a text. Which code a character has is the host's concern
(30_encoding.md R110; 93_implementation_defined.md G1). Log entry 12. -/
def charCodes (text : List Char) : List Lane := text.map fun c => BitVec.ofNat 64 c.toNat

/-- `BUILDSTR.W "text"` (30_encoding.md R110). -/
def buildStrW (text : List Char) : List Instr := buildSeqW (charCodes text)

/-- `BUILDSTR.N "text"` (30_encoding.md R110). -/
def buildStrN (text : List Char) : List Instr := buildSeqN (charCodes text)

end Sys2Proof.Machine
end

