-- ==== Sys2Proof/Safety.lean ====
section
/-! DEFINITION. The terms in which claims about algo-CORE are made: what a command answers, what a
well-formed state is, which sequence an instance was built from, which commands belong to which
slice. -/

namespace Sys2Proof

open Sys2Proof.Machine

/-- `s` after one response with the status `st` and the value `v`, nothing else changed. -/
def replied (st : Status) (v : Nat) (s : State) : State :=
  { s with responses := { status := st, val := BitVec.ofNat 64 v } :: s.responses }

/-- The 27 legal words (30_encoding.md R100; listed in 95_test_vectors.md section 2.6). -/
def legalWords : List Word :=
  [0x01000000, 0x01800000, 0x02000000, 0x02800000, 0x03000000, 0x03800000, 0x04000000, 0x04800000,
   0x05000000, 0x05800000, 0x06000000, 0x06800000, 0x07000000, 0x07800000, 0x08000000, 0x08800000,
   0x10000000, 0x11000000]
  ++ [0x20000000, 0x20000001, 0x20000002, 0x20000003, 0x20000004, 0x20000005, 0x20000006, 0x20000007,
   0x21000002]

/-- The commands that change no state (20_memory.md R63; 40_modmul_wide.md R123; 42_modmul_narrow.md
R162). -/
def Instr.readOnly : Instr → Bool
  | .mulW _ _ | .mulN _ _ | .gethW _ _ | .gethN _ _ | .revhW _ _ | .revhN _ _ => true
  | .rdpowW _ | .rdpowN _ | .rdpreW _ | .rdpreN _ | .rdsufW _ | .rdsufN _ => true
  | .rsym _ | .csrr _ => true
  | .initW | .initN | .buildW _ | .buildN _ | .wsym _ _ | .csrw _ _ => false

/-- The commands of the wide slice (30_encoding.md R91, `v = 0`). -/
def Instr.isWide : Instr → Bool
  | .mulW _ _ | .initW | .buildW _ | .gethW _ _ | .revhW _ _ | .rdpowW _ | .rdpreW _ | .rdsufW _ => true
  | .mulN _ _ | .initN | .buildN _ | .gethN _ _ | .revhN _ _ | .rdpowN _ | .rdpreN _ | .rdsufN _ => false
  | .wsym _ _ | .rsym _ | .csrr _ | .csrw _ _ => false

/-- The commands of the narrow slice (30_encoding.md R91, `v = 1`). -/
def Instr.isNarrow : Instr → Bool
  | .mulN _ _ | .initN | .buildN _ | .gethN _ _ | .revhN _ _ | .rdpowN _ | .rdpreN _ | .rdsufN _ => true
  | .mulW _ _ | .initW | .buildW _ | .gethW _ _ | .revhW _ _ | .rdpowW _ | .rdpreW _ | .rdsufW _ => false
  | .wsym _ _ | .rsym _ | .csrr _ | .csrw _ _ => false

/-- The statuses a legal command can answer (60_exceptions.md R218). -/
def Instr.statuses : Instr → List Status
  | .initW | .initN | .csrr _ | .csrw _ _ => [.ok]
  | .mulW _ _ | .mulN _ _ => [.ok, .operandRange]
  | .buildW _ | .buildN _ => [.ok, .capacityExceeded]
  | .gethW _ _ | .gethN _ _ | .revhW _ _ | .revhN _ _ => [.ok, .indexOutOfRange]
  | .rdpreW _ | .rdpreN _ | .rdsufW _ | .rdsufN _ | .rsym _ => [.ok, .indexOutOfRange]
  | .rdpowW _ | .rdpowN _ => [.ok, .notInitialised, .indexOutOfRange]
  | .wsym _ _ => [.ok, .operandRange, .indexOutOfRange]

/-- The two states hold the same wide slice (00_scope.md R2). -/
structure SameWide (s t : State) : Prop where
  initW : s.initW = t.initW
  baseW : s.baseW = t.baseW
  powW : s.powW = t.powW
  nW : s.nW = t.nW
  preW : s.preW = t.preW
  sufW : s.sufW = t.sufW

/-- The two states hold the same narrow slice (00_scope.md R2). -/
structure SameNarrow (s t : State) : Prop where
  initN : s.initN = t.initN
  powN : s.powN = t.powN
  nN : s.nN = t.nN
  preN : s.preN = t.preN
  sufN : s.sufN = t.sufN

/-- The two states hold the same of what the slices share: the seed, the symbol buffer, the parameter
`MAXLEN` and which unspecified contents hold. -/
structure SameShared (s t : State) : Prop where
  seed : s.seed = t.seed
  sym : s.sym = t.sym
  maxLen : s.maxLen = t.maxLen
  epoch : s.epoch = t.epoch

/-! ### The invariants of a reachable state -/

/-- What holds of the wide slice from reset on (00_scope.md R5, R10; 10_state.md R27, R29, R35, R37,
R38, R43 with its note b). -/
structure WideInv (s : State) : Prop where
  length_lt : s.nW.toNat < s.maxLen.toNat
  pre_length : s.preW.length = s.nW.toNat + 1
  suf_length : s.sufW.length = s.nW.toNat + 1
  pre_first : preWAt s 0 = some 0
  suf_last : sufWAt s (s.nW.toNat + 1) = some 0
  pre_reduced : ∀ v ∈ s.preW, v.toNat < Config.mW
  suf_reduced : ∀ v ∈ s.sufW, v.toNat < Config.mW
  built_init : 0 < s.nW.toNat → s.initW = true
  before_init : s.initW = false → s.baseW = 0 ∧ s.powW = .unspecified
  after_init : s.initW = true → Config.midLo ≤ s.baseW.toNat ∧ s.baseW.toNat < 2 * Config.midLo ∧
    s.powW = .built s.baseW

/-- What holds of the narrow slice from reset on (00_scope.md R5; 10_state.md R30, R36, R39, R40, R43
with its note b). -/
structure NarrowInv (s : State) : Prop where
  length_lt : s.nN.toNat < s.maxLen.toNat
  pre_length : s.preN.length = s.nN.toNat + 1
  suf_length : s.sufN.length = s.nN.toNat + 1
  pre_first : preNAt s 0 = some 0
  suf_last : sufNAt s s.nN.toNat = some 0
  pre_reduced : ∀ v ∈ s.preN, v.toNat < Config.mN
  suf_reduced : ∀ v ∈ s.sufN, v.toNat < Config.mN
  built_init : 0 < s.nN.toNat → s.initN = true
  before_init : s.initN = false → s.powN = .unspecified
  after_init : s.initN = true → s.powN = .built Config.baseN

/-- The invariant of the machine: both slices', the canonical form of the symbol buffer, its indices below
`MAXLEN` (10_state.md R33), and the range of the parameter (00_scope.md R9). -/
structure MachineInv (s : State) : Prop where
  wide : WideInv s
  narrow : NarrowInv s
  memory : s.sym.wf
  memory_below : s.sym.below s.maxLen.toNat
  maxLen_pos : 1 ≤ s.maxLen.toNat

/-! ### The sequence an instance was built from -/

/-- Entry `i` of an array as a number, 0 where there is no entry. -/
def entryNum {w : Nat} (entry : Option (BitVec w)) : Nat := (entry.getD 0).toNat

/-- The wide instance of `s` is the one the recurrences of 41_rollhash_wide.md R141 build from the
sequence `x 0, …, x (n_w - 1)` over the base of `s`. -/
structure WideInstance (s : State) (x : Nat → Nat) : Prop where
  length_lt : s.nW.toNat < s.maxLen.toNat
  pre_length : s.preW.length = s.nW.toNat + 1
  suf_length : s.sufW.length = s.nW.toNat + 1
  pre_first : entryNum (preWAt s 0) = 0
  pre_next : ∀ i < s.nW.toNat, entryNum (preWAt s (i + 1)) =
    (entryNum (preWAt s i) * s.baseW.toNat + x i + 997) % Config.mW
  suf_last : entryNum (sufWAt s (s.nW.toNat + 1)) = 0
  suf_next : ∀ i < s.nW.toNat, entryNum (sufWAt s (i + 1)) =
    (entryNum (sufWAt s (i + 2)) * s.baseW.toNat + x i + 997) % Config.mW

/-- The narrow instance of `s` is the one the recurrences of 43_rollhash_narrow.md R176 build from the
sequence `x 0, …, x (n_n - 1)`. -/
structure NarrowInstance (s : State) (x : Nat → Nat) : Prop where
  length_lt : s.nN.toNat < s.maxLen.toNat
  pre_length : s.preN.length = s.nN.toNat + 1
  suf_length : s.sufN.length = s.nN.toNat + 1
  pre_first : entryNum (preNAt s 0) = 0
  pre_next : ∀ i < s.nN.toNat, entryNum (preNAt s (i + 1)) =
    (entryNum (preNAt s i) * Config.baseN.toNat + x i) % Config.mN
  suf_last : entryNum (sufNAt s s.nN.toNat) = 0
  suf_next : ∀ i < s.nN.toNat, entryNum (sufNAt s i) =
    (entryNum (sufNAt s (i + 1)) * Config.baseN.toNat + x i) % Config.mN

/-- Execute commands one after another, stopping where one does not answer (20_memory.md R71). -/
def execAll : List Instr → State → Machine.Result
  | [], s => .next s
  | i :: is, s =>
    match Machine.exec i s with
    | .next t => execAll is t
    | .fault f => .fault f
    | .refused r => .refused r

end Sys2Proof
end

