-- ==== Sys2Proof/Certificates/Slice0/Obligations.lean ====
section
/-! DEFINITION. The statements about algo-CORE, from the numbered rules of spec/. A statement writes the
spec's constants out (`2^61 - 1`, `998244353`, `997`), so that it does not follow the model where the
model errs. `MAXLEN` is the parameter `s.maxLen` (00_scope.md R9): a statement over all states is one
over all its values (log entry 9). `replied st v s` is `s` after the response `(st, v)`: the model
records responses in a field of its own (log entry 2) and takes commands from one (log entry 1). -/

open Sys2Proof Sys2Proof.Machine

/-! ### Decoding and encoding -/

/-- 30_encoding.md R94, R100: each of the nineteen word forms, with any lanes, decodes to its
instruction, and every command whose word is none of the 27 legal words is answered
`ILLEGAL_COMMAND`, whatever the lanes hold, with nothing else changed. -/
def Obligations.DecodeIsTotalOnAllWords : Prop :=
  (∀ a b : Lane,
    decode ⟨0x01000000, a, b⟩ = .ok (.mulW a b) ∧ decode ⟨0x01800000, a, b⟩ = .ok (.mulN a b) ∧
    decode ⟨0x02000000, a, b⟩ = .ok .initW ∧ decode ⟨0x02800000, a, b⟩ = .ok .initN ∧
    decode ⟨0x03000000, a, b⟩ = .ok (.buildW a) ∧ decode ⟨0x03800000, a, b⟩ = .ok (.buildN a) ∧
    decode ⟨0x04000000, a, b⟩ = .ok (.gethW a b) ∧ decode ⟨0x04800000, a, b⟩ = .ok (.gethN a b) ∧
    decode ⟨0x05000000, a, b⟩ = .ok (.revhW a b) ∧ decode ⟨0x05800000, a, b⟩ = .ok (.revhN a b) ∧
    decode ⟨0x06000000, a, b⟩ = .ok (.rdpowW a) ∧ decode ⟨0x06800000, a, b⟩ = .ok (.rdpowN a) ∧
    decode ⟨0x07000000, a, b⟩ = .ok (.rdpreW a) ∧ decode ⟨0x07800000, a, b⟩ = .ok (.rdpreN a) ∧
    decode ⟨0x08000000, a, b⟩ = .ok (.rdsufW a) ∧ decode ⟨0x08800000, a, b⟩ = .ok (.rdsufN a) ∧
    decode ⟨0x10000000, a, b⟩ = .ok (.wsym a b) ∧ decode ⟨0x11000000, a, b⟩ = .ok (.rsym a) ∧
    (∀ r : Csr, decode ⟨0x20000000 + BitVec.ofNat 32 (csrNumber r), a, b⟩ = .ok (.csrr r)) ∧
    decode ⟨0x21000002, a, b⟩ = .ok (.csrw .seed a)) ∧
  legalWords.length = 27 ∧ legalWords.Nodup ∧
  ∀ (c : Command) (rest : List HostEvent) (s : State), c.word ∉ legalWords →
    s.inputs = .command c :: rest →
    step s = .next (replied .illegalCommand 0 { s with inputs := rest })

/-- 30_encoding.md R94, R109: no bit of an encoding is dropped. -/
def Obligations.DecodeOfEncode : Prop :=
  ∀ i : Instr, i.wellFormed = true → decode (encode i) = .ok i

/-- 30_encoding.md R94, R95, R100: a command that decodes has the word of its instruction and, on each
lane the instruction reads, its operand; the instruction is well-formed. -/
def Obligations.EncodeOfDecode : Prop :=
  ∀ (c : Command) (i : Instr), decode c = .ok i →
    i.wellFormed = true ∧ (encode i).word = c.word ∧
    (i.lanesRead.1 = true → (encode i).op1 = c.op1) ∧
    (i.lanesRead.2 = true → (encode i).op2 = c.op2)

/-- 30_encoding.md R95: a lane a command does not read is ignored, whatever it holds. -/
def Obligations.UnreadLanesAreIgnored : Prop :=
  ∀ (c : Command) (i : Instr) (x : Lane), decode c = .ok i →
    (i.lanesRead.1 = false → decode { c with op1 := x } = .ok i) ∧
    (i.lanesRead.2 = false → decode { c with op2 := x } = .ok i)

/-- 30_encoding.md R94: a few words written out from the formats. -/
def Obligations.WordsOfTheOpcodeMap : Prop :=
  decode ⟨0x01000000, 5, 7⟩ = .ok (.mulW 5 7) ∧ decode ⟨0x06800000, 4, 9⟩ = .ok (.rdpowN 4) ∧
  decode ⟨0x05800000, 1, 3⟩ = .ok (.revhN 1 3) ∧ decode ⟨0x10000000, 0, 114⟩ = .ok (.wsym 0 114) ∧
  decode ⟨0x20000005, 0, 0⟩ = .ok (.csrr .lenW) ∧ decode ⟨0x21000002, 6, 0⟩ = .ok (.csrw .seed 6) ∧
  decode ⟨0x21000003, 6, 0⟩ = .error .readOnlyCsr ∧ decode ⟨0x10800000, 0, 0⟩ = .error .reservedBits

/-! ### The step -/

/-- 20_memory.md R70, R71: a pending legal command is executed as the instruction it decodes to, on the
state from which the engine has taken it. -/
def Obligations.StepRunsTheDecodedInstruction : Prop :=
  ∀ (s : State) (c : Command) (rest : List HostEvent) (i : Instr),
    s.inputs = .command c :: rest → decode c = .ok i →
    step s = exec i { s with inputs := rest }

/-- 60_exceptions.md R225: with nothing pending the block holds its state. -/
def Obligations.StepWithNothingPendingHoldsTheState : Prop :=
  ∀ s : State, s.inputs = [] → step s = .next s

/-- 70_reset_and_hazards.md R240, R242: a reset gives every row of the state table its reset value,
whatever came before, and delivers no response. -/
def Obligations.ResetGivesTheResetState : Prop :=
  ∀ (s : State) (strap : Lane) (rest : List HostEvent), s.inputs = .reset strap :: rest →
    ∃ t, step s = .next t ∧ t.seed = strap ∧ t.initW = false ∧ t.initN = false ∧ t.baseW = 0 ∧
      t.nW = 0 ∧ t.nN = 0 ∧ preWAt t 0 = some 0 ∧ sufWAt t 1 = some 0 ∧ preNAt t 0 = some 0 ∧
      sufNAt t 0 = some 0 ∧ t.preW.length = 1 ∧ t.sufW.length = 1 ∧ t.preN.length = 1 ∧
      t.sufN.length = 1 ∧ t.powW = .unspecified ∧ t.powN = .unspecified ∧ t.sym = [] ∧
      t.inputs = rest ∧ t.responses = s.responses ∧ t.maxLen = s.maxLen

/-- 70_reset_and_hazards.md R241: a reset during a command is a reset with the command never answered. -/
def Obligations.ResetDuringACommandAbandonsIt : Prop :=
  ∀ (s : State) (c : Command) (strap : Lane) (rest : List HostEvent),
    s.inputs = .resetDuring c strap :: rest →
    ∃ t, step s = .next t ∧ step { s with inputs := .reset strap :: rest } = .next t ∧
      t.responses = s.responses

/-- 10_state.md R43: the state right after reset, with the open parameter as the seed; 00_scope.md R9: this
hardware's `MAXLEN`. -/
def Obligations.StateAfterReset : Prop :=
  State.reset.seed = Config.seedReset ∧ State.reset.initW = false ∧ State.reset.initN = false ∧
  State.reset.baseW = 0 ∧ State.reset.nW = 0 ∧ State.reset.nN = 0 ∧
  preWAt State.reset 0 = some 0 ∧ sufWAt State.reset 1 = some 0 ∧
  preNAt State.reset 0 = some 0 ∧ sufNAt State.reset 0 = some 0 ∧
  State.reset.powW = .unspecified ∧ State.reset.powN = .unspecified ∧ State.reset.sym = [] ∧
  State.reset.maxLen.toNat = 1000000

/-! ### The multipliers -/

/-- 40_modmul_wide.md R123: `MUL.W`. -/
def Obligations.MulWideAnswers : Prop :=
  ∀ (s : State) (a b : Lane),
    decode ⟨0x01000000, a, b⟩ = .ok (.mulW a b) ∧
    (a.toNat < 2 ^ 61 - 1 → b.toNat < 2 ^ 61 - 1 →
      exec (.mulW a b) s = .next (replied .ok (a.toNat * b.toNat % (2 ^ 61 - 1)) s)) ∧
    (2 ^ 61 - 1 ≤ a.toNat ∨ 2 ^ 61 - 1 ≤ b.toNat →
      exec (.mulW a b) s = .next (replied .operandRange 0 s))

/-- 42_modmul_narrow.md R162: `MUL.N`. -/
def Obligations.MulNarrowAnswers : Prop :=
  ∀ (s : State) (a b : Lane),
    decode ⟨0x01800000, a, b⟩ = .ok (.mulN a b) ∧
    (a.toNat < 998244353 → b.toNat < 998244353 →
      exec (.mulN a b) s = .next (replied .ok (a.toNat * b.toNat % 998244353) s)) ∧
    (998244353 ≤ a.toNat ∨ 998244353 ≤ b.toNat →
      exec (.mulN a b) s = .next (replied .operandRange 0 s))

/-- 40_modmul_wide.md R121, R122: on field elements the 64-bit datapath computes the contract. -/
def Obligations.DatapathComputesTheWideProduct : Prop :=
  ∀ a b : Lane, a.toNat < 2 ^ 61 - 1 → b.toNat < 2 ^ 61 - 1 →
    (mulWideDatapath a b).toNat = a.toNat * b.toNat % (2 ^ 61 - 1)

/-- 40_modmul_wide.md R122: no partial product and no addition of the datapath wraps, and the biased
sum stays below `3 * M_W`. -/
def Obligations.DatapathNeverWraps : Prop :=
  ∀ a b : Lane, a.toNat < 2 ^ 61 - 1 → b.toNat < 2 ^ 61 - 1 →
    (partialProducts a b).1.toNat = (a.toNat % 2 ^ 32) * (b.toNat % 2 ^ 32) ∧
    (partialProducts a b).2.1.toNat =
      (a.toNat % 2 ^ 32) * (b.toNat / 2 ^ 32) + (b.toNat % 2 ^ 32) * (a.toNat / 2 ^ 32) ∧
    (partialProducts a b).2.2.toNat = (a.toNat / 2 ^ 32) * (b.toNat / 2 ^ 32) ∧
    (biasedSum a b).toNat =
      (partialProducts a b).1.toNat % 2 ^ 61 + (partialProducts a b).1.toNat / 2 ^ 61 +
      (partialProducts a b).2.1.toNat % 2 ^ 29 * 2 ^ 32 + (partialProducts a b).2.1.toNat / 2 ^ 29 +
      8 * (partialProducts a b).2.2.toNat + 1 ∧
    (biasedSum a b).toNat < 3 * (2 ^ 61 - 1)

/-- 40_modmul_wide.md R122: for field elements the second pass never changes the accumulator. -/
def Obligations.SecondPassChangesNothing : Prop :=
  ∀ a b : Lane, a.toNat < 2 ^ 61 - 1 → b.toNat < 2 ^ 61 - 1 →
    foldPass (foldPass (biasedSum a b)) = foldPass (biasedSum a b)

/-- 40_modmul_wide.md R127: commutativity, identity, zero, as answers of `MUL.W`. -/
def Obligations.MulWideLaws : Prop :=
  ∀ (s : State) (a b : Lane),
    exec (.mulW a b) s = exec (.mulW b a) s ∧
    (a.toNat < 2 ^ 61 - 1 → exec (.mulW a 1) s = .next (replied .ok a.toNat s) ∧
      exec (.mulW 0 a) s = .next (replied .ok 0 s))

/-- 42_modmul_narrow.md R166: commutativity and identity, as answers of `MUL.N`. -/
def Obligations.MulNarrowLaws : Prop :=
  ∀ (s : State) (a b : Lane),
    exec (.mulN a b) s = exec (.mulN b a) s ∧
    (a.toNat < 998244353 → exec (.mulN a 1) s = .next (replied .ok a.toNat s))

/-! ### Initialisation and the power tables -/

/-- 40_modmul_wide.md R124, R125: `INIT.W`. The first one derives the base from the seed and fills the
table by its recurrence, and writes nothing else; a later one changes nothing. -/
def Obligations.InitWideInitialisesOnce : Prop :=
  ∀ (s : State) (a b : Lane),
    decode ⟨0x02000000, a, b⟩ = .ok .initW ∧
    (s.initW = true → exec .initW s = .next (replied .ok s.baseW.toNat s)) ∧
    (s.initW = false → ∃ t : State, exec .initW s = .next (replied .ok t.baseW.toNat t) ∧
      t = { s with initW := true, baseW := t.baseW, powW := t.powW } ∧
      t.baseW.toNat = 768614336404564650 + s.seed.toNat % 768614336404564650 ∧
      (1 ≤ s.maxLen.toNat → entryNum (powWAt t 0) = 1) ∧
      ∀ i, 1 ≤ i → i < s.maxLen.toNat → (powWAt t i).isSome = true ∧
        entryNum (powWAt t i) = t.baseW.toNat * entryNum (powWAt t (i - 1)) % (2 ^ 61 - 1))

/-- 42_modmul_narrow.md R163, R164: `INIT.N`. -/
def Obligations.InitNarrowInitialisesOnce : Prop :=
  ∀ (s : State) (a b : Lane),
    decode ⟨0x02800000, a, b⟩ = .ok .initN ∧
    (s.initN = true → exec .initN s = .next (replied .ok Config.baseN.toNat s)) ∧
    (s.initN = false → ∃ t : State, exec .initN s = .next (replied .ok Config.baseN.toNat t) ∧
      t = { s with initN := true, powN := t.powN } ∧
      (1 ≤ s.maxLen.toNat → entryNum (powNAt t 0) = 1) ∧
      ∀ i, 1 ≤ i → i < s.maxLen.toNat → (powNAt t i).isSome = true ∧
        entryNum (powNAt t i) = Config.baseN.toNat * entryNum (powNAt t (i - 1)) % 998244353)

/-- 40_modmul_wide.md R126, 10_state.md R33: `RDPOW.W`; on a table that is built the entry is
`base_w^i mod M_W`. -/
def Obligations.ReadPowerWideAnswers : Prop :=
  ∀ (s : State) (i b : Lane),
    decode ⟨0x06000000, i, b⟩ = .ok (.rdpowW i) ∧
    (s.initW = false → exec (.rdpowW i) s = .next (replied .notInitialised 0 s)) ∧
    (s.initW = true → s.maxLen.toNat ≤ i.toNat →
      exec (.rdpowW i) s = .next (replied .indexOutOfRange 0 s)) ∧
    (s.initW = true → i.toNat < s.maxLen.toNat → ∃ v, powWAt s i.toNat = some v ∧
      exec (.rdpowW i) s = .next (replied .ok v.toNat s)) ∧
    (s.initW = true → i.toNat < s.maxLen.toNat → s.powW = .built s.baseW →
      exec (.rdpowW i) s = .next (replied .ok (s.baseW.toNat ^ i.toNat % (2 ^ 61 - 1)) s))

/-- 42_modmul_narrow.md R165, 10_state.md R33: `RDPOW.N`. -/
def Obligations.ReadPowerNarrowAnswers : Prop :=
  ∀ (s : State) (i b : Lane),
    decode ⟨0x06800000, i, b⟩ = .ok (.rdpowN i) ∧
    (s.initN = false → exec (.rdpowN i) s = .next (replied .notInitialised 0 s)) ∧
    (s.initN = true → s.maxLen.toNat ≤ i.toNat →
      exec (.rdpowN i) s = .next (replied .indexOutOfRange 0 s)) ∧
    (s.initN = true → i.toNat < s.maxLen.toNat → ∃ v, powNAt s i.toNat = some v ∧
      exec (.rdpowN i) s = .next (replied .ok v.toNat s)) ∧
    (s.initN = true → i.toNat < s.maxLen.toNat → s.powN = .built Config.baseN →
      exec (.rdpowN i) s = .next (replied .ok (Config.baseN.toNat ^ i.toNat % 998244353) s))

/-- 40_modmul_wide.md R129: two seeds give the same base exactly when they are congruent modulo
`MID_LO`. -/
def Obligations.SeedsGiveTheSameBaseIffCongruent : Prop :=
  ∀ (s s' t t' : State), s.initW = false → s'.initW = false →
    exec .initW s = .next t → exec .initW s' = .next t' →
    (t.baseW = t'.baseW ↔ s.seed.toNat % 768614336404564650 = s'.seed.toNat % 768614336404564650)

/-! ### Construction -/

/-- 41_rollhash_wide.md R141: `BUILD.W`. The capacity failure comes first and changes nothing; a
success initialises the slice as `INIT.W` would, if it was not, replaces the wide instance by the one
of `sym[0 .. n-1]`, and writes nothing else; a later `WSYM` does not change that instance. -/
def Obligations.BuildWideConstructs : Prop :=
  ∀ (s : State) (n b : Lane),
    decode ⟨0x03000000, n, b⟩ = .ok (.buildW n) ∧
    (s.maxLen.toNat ≤ n.toNat → exec (.buildW n) s = .next (replied .capacityExceeded 0 s)) ∧
    (n.toNat < s.maxLen.toNat → ∃ t u : State, exec (.buildW n) s = .next (replied .ok 0 t) ∧
      exec .initW s = .next (replied .ok u.baseW.toNat u) ∧
      t = { u with nW := t.nW, preW := t.preW, sufW := t.sufW } ∧
      t.nW.toNat = n.toNat ∧ WideInstance t (fun k => (symAt s k).toNat) ∧
      ∀ k v u, exec (.wsym k v) t = .next u → u.nW = t.nW ∧ WideInstance u (fun k => (symAt s k).toNat))

/-- 43_rollhash_narrow.md R176: `BUILD.N`. -/
def Obligations.BuildNarrowConstructs : Prop :=
  ∀ (s : State) (n b : Lane),
    decode ⟨0x03800000, n, b⟩ = .ok (.buildN n) ∧
    (s.maxLen.toNat ≤ n.toNat → exec (.buildN n) s = .next (replied .capacityExceeded 0 s)) ∧
    (n.toNat < s.maxLen.toNat → ∃ t u : State, exec (.buildN n) s = .next (replied .ok 0 t) ∧
      exec .initN s = .next (replied .ok Config.baseN.toNat u) ∧
      t = { u with nN := t.nN, preN := t.preN, sufN := t.sufN } ∧
      t.nN.toNat = n.toNat ∧ NarrowInstance t (fun k => (symAt s k).toNat))

/-- 70_reset_and_hazards.md R243, 40_modmul_wide.md R125: whether a slice is initialised eagerly, before
its `BUILD`, or lazily, by it, the state after the `BUILD` is the same but for the response of the
`INIT`. -/
def Obligations.EagerAndLazyInitialisationAgree : Prop :=
  ∀ (s u : State) (n : Lane), n.toNat < s.maxLen.toNat →
    (exec .initW s = .next u → ∃ t t', exec (.buildW n) s = .next t ∧
      exec (.buildW n) u = .next t' ∧ t = { t' with responses := t.responses }) ∧
    (exec .initN s = .next u → ∃ t t', exec (.buildN n) s = .next t ∧
      exec (.buildN n) u = .next t' ∧ t = { t' with responses := t.responses })

/-- 30_encoding.md R110: `BUILDSEQ` of a sequence of symbols shorter than `MAXLEN`, from any state,
leaves its slice with the instance of that sequence. -/
def Obligations.BuildSequenceConstructs : Prop :=
  ∀ (s : State) (xs : List Lane), xs.length < s.maxLen.toNat → (∀ x ∈ xs, x.toNat < 2 ^ 32) →
    (∃ t, execAll (buildSeqW xs) s = .next t ∧ t.nW.toNat = xs.length ∧
      WideInstance t (fun k => (xs.getD k 0).toNat)) ∧
    (∃ t, execAll (buildSeqN xs) s = .next t ∧ t.nN.toNat = xs.length ∧
      NarrowInstance t (fun k => (xs.getD k 0).toNat))

/-! ### Queries -/

/-- 41_rollhash_wide.md R142: `GETH.W`; from position 0 it answers the prefix entry, on one symbol
`x l + 997`. -/
def Obligations.ForwardHashWideAnswers : Prop :=
  ∀ (s : State) (l r : Lane),
    decode ⟨0x04000000, l, r⟩ = .ok (.gethW l r) ∧
    (¬ (l.toNat ≤ r.toNat ∧ r.toNat < s.nW.toNat) →
      exec (.gethW l r) s = .next (replied .indexOutOfRange 0 s)) ∧
    (∀ p g q : WideEntry, l.toNat ≤ r.toNat → r.toNat < s.nW.toNat →
      preWAt s (r.toNat + 1) = some p → powWAt s (r.toNat - l.toNat + 1) = some g →
      preWAt s l.toNat = some q → p.toNat < 2 ^ 61 - 1 →
      exec (.gethW l r) s =
        .next (replied .ok (((p.toNat : Int) - g.toNat * q.toNat) % (2 ^ 61 - 1)).toNat s)) ∧
    (MachineInv s → r.toNat < s.nW.toNat → ∃ p, preWAt s (r.toNat + 1) = some p ∧
      exec (.gethW 0 r) s = .next (replied .ok p.toNat s)) ∧
    ∀ x, WideInstance s x → s.powW = .built s.baseW → l.toNat < s.nW.toNat → x l.toNat < 2 ^ 32 →
      exec (.gethW l l) s = .next (replied .ok (x l.toNat + 997) s)

/-- 41_rollhash_wide.md R143: `REVH.W`; up to the last position it answers the suffix entry, on one
symbol `x l + 997`. -/
def Obligations.ReverseHashWideAnswers : Prop :=
  ∀ (s : State) (l r : Lane),
    decode ⟨0x05000000, l, r⟩ = .ok (.revhW l r) ∧
    (¬ (l.toNat ≤ r.toNat ∧ r.toNat < s.nW.toNat) →
      exec (.revhW l r) s = .next (replied .indexOutOfRange 0 s)) ∧
    (∀ p g q : WideEntry, l.toNat ≤ r.toNat → r.toNat < s.nW.toNat →
      sufWAt s (l.toNat + 1) = some p → powWAt s (r.toNat - l.toNat + 1) = some g →
      sufWAt s (r.toNat + 2) = some q → p.toNat < 2 ^ 61 - 1 →
      exec (.revhW l r) s =
        .next (replied .ok (((p.toNat : Int) - g.toNat * q.toNat) % (2 ^ 61 - 1)).toNat s)) ∧
    (MachineInv s → l.toNat ≤ r.toNat → r.toNat + 1 = s.nW.toNat →
      ∃ p, sufWAt s (l.toNat + 1) = some p ∧ exec (.revhW l r) s = .next (replied .ok p.toNat s)) ∧
    ∀ x, WideInstance s x → s.powW = .built s.baseW → l.toNat < s.nW.toNat → x l.toNat < 2 ^ 32 →
      exec (.revhW l l) s = .next (replied .ok (x l.toNat + 997) s)

/-- 43_rollhash_narrow.md R177: `GETH.N`; on one symbol it answers `x l mod M_N`. -/
def Obligations.ForwardHashNarrowAnswers : Prop :=
  ∀ (s : State) (l r : Lane),
    decode ⟨0x04800000, l, r⟩ = .ok (.gethN l r) ∧
    (¬ (l.toNat ≤ r.toNat ∧ r.toNat < s.nN.toNat) →
      exec (.gethN l r) s = .next (replied .indexOutOfRange 0 s)) ∧
    (∀ p g q : NarrowEntry, l.toNat ≤ r.toNat → r.toNat < s.nN.toNat →
      preNAt s (r.toNat + 1) = some p → powNAt s (r.toNat - l.toNat + 1) = some g →
      preNAt s l.toNat = some q → p.toNat < 998244353 →
      exec (.gethN l r) s =
        .next (replied .ok (((p.toNat : Int) - g.toNat * q.toNat) % 998244353).toNat s)) ∧
    ∀ x, NarrowInstance s x → s.powN = .built Config.baseN → l.toNat < s.nN.toNat →
      exec (.gethN l l) s = .next (replied .ok (x l.toNat % 998244353) s)

/-- 43_rollhash_narrow.md R178: `REVH.N`, which reads one index below the wide slice's; on one symbol it
answers `x l mod M_N`. -/
def Obligations.ReverseHashNarrowAnswers : Prop :=
  ∀ (s : State) (l r : Lane),
    decode ⟨0x05800000, l, r⟩ = .ok (.revhN l r) ∧
    (¬ (l.toNat ≤ r.toNat ∧ r.toNat < s.nN.toNat) →
      exec (.revhN l r) s = .next (replied .indexOutOfRange 0 s)) ∧
    (∀ p g q : NarrowEntry, l.toNat ≤ r.toNat → r.toNat < s.nN.toNat →
      sufNAt s l.toNat = some p → powNAt s (r.toNat - l.toNat + 1) = some g →
      sufNAt s (r.toNat + 1) = some q → p.toNat < 998244353 →
      exec (.revhN l r) s =
        .next (replied .ok (((p.toNat : Int) - g.toNat * q.toNat) % 998244353).toNat s)) ∧
    ∀ x, NarrowInstance s x → s.powN = .built Config.baseN → l.toNat < s.nN.toNat →
      exec (.revhN l l) s = .next (replied .ok (x l.toNat % 998244353) s)

/-- 41_rollhash_wide.md R144: `RDPRE.W`; entry 0 reads 0. -/
def Obligations.ReadPrefixWideAnswers : Prop :=
  ∀ (s : State) (i b : Lane),
    decode ⟨0x07000000, i, b⟩ = .ok (.rdpreW i) ∧
    (s.nW.toNat < i.toNat → exec (.rdpreW i) s = .next (replied .indexOutOfRange 0 s)) ∧
    (∀ v, i.toNat ≤ s.nW.toNat → preWAt s i.toNat = some v →
      exec (.rdpreW i) s = .next (replied .ok v.toNat s)) ∧
    (MachineInv s → exec (.rdpreW 0) s = .next (replied .ok 0 s))

/-- 41_rollhash_wide.md R145: `RDSUF.W`; index 0 is out of range, index `n_w + 1` is not and reads 0. -/
def Obligations.ReadSuffixWideAnswers : Prop :=
  ∀ (s : State) (i b : Lane),
    decode ⟨0x08000000, i, b⟩ = .ok (.rdsufW i) ∧
    (i.toNat < 1 ∨ s.nW.toNat + 1 < i.toNat →
      exec (.rdsufW i) s = .next (replied .indexOutOfRange 0 s)) ∧
    (∀ v, 1 ≤ i.toNat → i.toNat ≤ s.nW.toNat + 1 → sufWAt s i.toNat = some v →
      exec (.rdsufW i) s = .next (replied .ok v.toNat s)) ∧
    (MachineInv s → i.toNat = s.nW.toNat + 1 → exec (.rdsufW i) s = .next (replied .ok 0 s))

/-- 43_rollhash_narrow.md R179: `RDPRE.N`; entry 0 reads 0. -/
def Obligations.ReadPrefixNarrowAnswers : Prop :=
  ∀ (s : State) (i b : Lane),
    decode ⟨0x07800000, i, b⟩ = .ok (.rdpreN i) ∧
    (s.nN.toNat < i.toNat → exec (.rdpreN i) s = .next (replied .indexOutOfRange 0 s)) ∧
    (∀ v, i.toNat ≤ s.nN.toNat → preNAt s i.toNat = some v →
      exec (.rdpreN i) s = .next (replied .ok v.toNat s)) ∧
    (MachineInv s → exec (.rdpreN 0) s = .next (replied .ok 0 s))

/-- 43_rollhash_narrow.md R180: `RDSUF.N`; index 0 is legal, index `n_n + 1` is not, `n_n` reads 0. -/
def Obligations.ReadSuffixNarrowAnswers : Prop :=
  ∀ (s : State) (i b : Lane),
    decode ⟨0x08800000, i, b⟩ = .ok (.rdsufN i) ∧
    (s.nN.toNat < i.toNat → exec (.rdsufN i) s = .next (replied .indexOutOfRange 0 s)) ∧
    (∀ v, i.toNat ≤ s.nN.toNat → sufNAt s i.toNat = some v →
      exec (.rdsufN i) s = .next (replied .ok v.toNat s)) ∧
    (MachineInv s → i.toNat = s.nN.toNat → exec (.rdsufN i) s = .next (replied .ok 0 s))

/-! ### What the queries compute -/

/-- 41_rollhash_wide.md R146: over an instance built from the sequence `x`, `GETH.W` answers the
polynomial hash of the range read forward, `REVH.W` read backward. -/
def Obligations.WideQueriesHashTheRange : Prop :=
  ∀ (s : State) (x : Nat → Nat) (l r : Lane), WideInstance s x → s.powW = .built s.baseW →
    l.toNat ≤ r.toNat → r.toNat < s.nW.toNat →
    exec (.gethW l r) s = .next (replied .ok ((∑ k ∈ Finset.Icc l.toNat r.toNat,
      (x k + 997) * s.baseW.toNat ^ (r.toNat - k)) % (2 ^ 61 - 1)) s) ∧
    exec (.revhW l r) s = .next (replied .ok ((∑ k ∈ Finset.Icc l.toNat r.toNat,
      (x k + 997) * s.baseW.toNat ^ (k - l.toNat)) % (2 ^ 61 - 1)) s)

/-- 43_rollhash_narrow.md R181: the same for the narrow slice, with no offset. -/
def Obligations.NarrowQueriesHashTheRange : Prop :=
  ∀ (s : State) (x : Nat → Nat) (l r : Lane), NarrowInstance s x → s.powN = .built Config.baseN →
    l.toNat ≤ r.toNat → r.toNat < s.nN.toNat →
    exec (.gethN l r) s = .next (replied .ok ((∑ k ∈ Finset.Icc l.toNat r.toNat,
      x k * Config.baseN.toNat ^ (r.toNat - k)) % 998244353) s) ∧
    exec (.revhN l r) s = .next (replied .ok ((∑ k ∈ Finset.Icc l.toNat r.toNat,
      x k * Config.baseN.toNat ^ (k - l.toNat)) % 998244353) s)

/-- 41_rollhash_wide.md R147: if one range read forward is another read backward, `GETH.W` of the first
and `REVH.W` of the second answer alike, for every base; a palindromic range is its own mirror. -/
def Obligations.WideMirroredRangesHashAlike : Prop :=
  ∀ (s : State) (x : Nat → Nat) (l r l' r' : Lane), WideInstance s x → s.powW = .built s.baseW →
    l.toNat ≤ r.toNat → r.toNat < s.nW.toNat → l'.toNat ≤ r'.toNat → r'.toNat < s.nW.toNat →
    r.toNat - l.toNat = r'.toNat - l'.toNat →
    (∀ j, j ≤ r.toNat - l.toNat → x (l.toNat + j) = x (r'.toNat - j)) →
    ∃ t, exec (.gethW l r) s = .next t ∧ exec (.revhW l' r') s = .next t

/-- 43_rollhash_narrow.md R182: the same for the narrow slice. -/
def Obligations.NarrowMirroredRangesHashAlike : Prop :=
  ∀ (s : State) (x : Nat → Nat) (l r l' r' : Lane), NarrowInstance s x → s.powN = .built Config.baseN →
    l.toNat ≤ r.toNat → r.toNat < s.nN.toNat → l'.toNat ≤ r'.toNat → r'.toNat < s.nN.toNat →
    r.toNat - l.toNat = r'.toNat - l'.toNat →
    (∀ j, j ≤ r.toNat - l.toNat → x (l.toNat + j) = x (r'.toNat - j)) →
    ∃ t, exec (.gethN l r) s = .next t ∧ exec (.revhN l' r') s = .next t

/-- 41_rollhash_wide.md R149: of "racecar", `GETH.W 1, 1` and `REVH.W 5, 6` answer differently, for every
legal base. -/
def Obligations.LengthMismatchDoesNotCollide : Prop :=
  ∀ (s : State) (x : Nat → Nat), MachineInv s → WideInstance s x → s.nW.toNat = 7 →
    x 1 = 97 → x 5 = 97 → x 6 = 114 →
    ∃ v w, v ≠ w ∧ v < 2 ^ 61 - 1 ∧ w < 2 ^ 61 - 1 ∧
      exec (.gethW 1 1) s = .next (replied .ok v s) ∧ exec (.revhW 5 6) s = .next (replied .ok w s)

/-- 43_rollhash_narrow.md R183: zero-valued symbols in front of a range do not change its forward hash,
and behind it do not change its reverse hash. -/
def Obligations.NarrowZerosAtTheEndsDoNotCount : Prop :=
  ∀ (s : State) (x : Nat → Nat) (l m r : Lane), NarrowInstance s x → s.powN = .built Config.baseN →
    l.toNat ≤ m.toNat → m.toNat ≤ r.toNat → r.toNat < s.nN.toNat →
    ((∀ k, l.toNat ≤ k → k < m.toNat → x k = 0) →
      ∃ t, exec (.gethN l r) s = .next t ∧ exec (.gethN m r) s = .next t) ∧
    ((∀ k, m.toNat < k → k ≤ r.toNat → x k = 0) →
      ∃ t, exec (.revhN l r) s = .next t ∧ exec (.revhN l m) s = .next t)

/-! ### The symbol buffer and the control registers -/

/-- 44_host_access.md R196: `WSYM`. The symbol check comes before the index check; a write changes one
entry of the buffer and nothing else. -/
def Obligations.WriteSymbolWritesOneEntry : Prop :=
  ∀ (s : State) (k v : Lane),
    decode ⟨0x10000000, k, v⟩ = .ok (.wsym k v) ∧
    (2 ^ 32 ≤ v.toNat → exec (.wsym k v) s = .next (replied .operandRange 0 s)) ∧
    (v.toNat < 2 ^ 32 → s.maxLen.toNat ≤ k.toNat →
      exec (.wsym k v) s = .next (replied .indexOutOfRange 0 s)) ∧
    (v.toNat < 2 ^ 32 → k.toNat < s.maxLen.toNat → ∃ t : State,
      exec (.wsym k v) s = .next (replied .ok 0 t) ∧ (symAt t k.toNat).toNat = v.toNat ∧
      (∀ j, j ≠ k.toNat → symAt t j = symAt s j) ∧ t = { s with sym := t.sym })

/-- 44_host_access.md R197: `RSYM`; an entry that was never written answers too. -/
def Obligations.ReadSymbolAnswers : Prop :=
  ∀ (s : State) (k b : Lane),
    decode ⟨0x11000000, k, b⟩ = .ok (.rsym k) ∧
    (s.maxLen.toNat ≤ k.toNat → exec (.rsym k) s = .next (replied .indexOutOfRange 0 s)) ∧
    (k.toNat < s.maxLen.toNat → exec (.rsym k) s = .next (replied .ok (symAt s k.toNat).toNat s))

/-- 44_host_access.md R199 and 10_state.md R24 to R31: `CSRR` of each of the eight registers. -/
def Obligations.ReadControlRegisterAnswers : Prop :=
  ∀ (s : State) (a b : Lane),
    (decode ⟨0x20000000, a, b⟩ = .ok (.csrr .id) ∧
      exec (.csrr .id) s = .next (replied .ok 0x4D36314800070001 s)) ∧
    (decode ⟨0x20000001, a, b⟩ = .ok (.csrr .status) ∧
      exec (.csrr .status) s = .next (replied .ok
        ((if s.initW = true then 1 else 0) + (if s.initN = true then 2 else 0)) s)) ∧
    (decode ⟨0x20000002, a, b⟩ = .ok (.csrr .seed) ∧
      exec (.csrr .seed) s = .next (replied .ok s.seed.toNat s)) ∧
    (decode ⟨0x20000003, a, b⟩ = .ok (.csrr .baseW) ∧
      exec (.csrr .baseW) s = .next (replied .ok s.baseW.toNat s) ∧
      (MachineInv s → s.initW = false → exec (.csrr .baseW) s = .next (replied .ok 0 s))) ∧
    (decode ⟨0x20000004, a, b⟩ = .ok (.csrr .baseN) ∧
      exec (.csrr .baseN) s = .next (replied .ok Config.baseNValue.val s)) ∧
    (decode ⟨0x20000005, a, b⟩ = .ok (.csrr .lenW) ∧
      exec (.csrr .lenW) s = .next (replied .ok s.nW.toNat s)) ∧
    (decode ⟨0x20000006, a, b⟩ = .ok (.csrr .lenN) ∧
      exec (.csrr .lenN) s = .next (replied .ok s.nN.toNat s)) ∧
    (decode ⟨0x20000007, a, b⟩ = .ok (.csrr .maxLen) ∧
      exec (.csrr .maxLen) s = .next (replied .ok s.maxLen.toNat s)) ∧
    ∀ w : Word, 0x20000008 ≤ w.toNat → w.toNat ≤ 0x20FFFFFF → ∃ e, decode ⟨w, a, b⟩ = .error e

/-- 44_host_access.md R200: `CSRW SEED` replaces the seed and nothing else; every other register is
refused at decode. -/
def Obligations.WriteControlRegisterWritesTheSeed : Prop :=
  ∀ (s : State) (v b : Lane),
    decode ⟨0x21000002, v, b⟩ = .ok (.csrw .seed v) ∧
    exec (.csrw .seed v) s = .next (replied .ok 0 { s with seed := v }) ∧
    (∀ w : Word, 0x21000000 ≤ w.toNat → w.toNat ≤ 0x21FFFFFF → w.toNat ≠ 0x21000002 →
      ∃ e, decode ⟨w, v, b⟩ = .error e) ∧
    ∀ r : Csr, r ≠ .seed → exec (.csrw r v) s = .next (replied .illegalCommand 0 s)

/-! ### Failures -/

/-- 60_exceptions.md R212: a command that answers a status other than `OK` changes no state at all and
its value is 0; nothing but taking the command and the response has happened. -/
def Obligations.FailureChangesNothing : Prop :=
  ∀ (s t : State) (c : Command) (rest : List HostEvent) (r : Response),
    s.inputs = .command c :: rest → step s = .next t → t.responses = r :: s.responses →
    r.status ≠ .ok → t = replied r.status 0 { s with inputs := rest }

/-- 60_exceptions.md R218: the statuses each legal command can answer. -/
def Obligations.CommandsAnswerOnlyTheirStatuses : Prop :=
  ∀ (i : Instr) (s t : State) (r : Response), i.wellFormed = true → exec i s = .next t →
    t.responses = r :: s.responses → r.status ∈ i.statuses

/-- 60_exceptions.md R219: which failure is reported where two hold of one command. -/
def Obligations.FailurePriority : Prop :=
  (∀ (s : State) (k v : Lane), s.maxLen.toNat ≤ k.toNat → 2 ^ 32 ≤ v.toNat →
    exec (.wsym k v) s = .next (replied .operandRange 0 s)) ∧
  (∀ (s : State) (i : Lane), s.initW = false → s.maxLen.toNat ≤ i.toNat →
    exec (.rdpowW i) s = .next (replied .notInitialised 0 s)) ∧
  (∀ (s : State) (i : Lane), s.initN = false → s.maxLen.toNat ≤ i.toNat →
    exec (.rdpowN i) s = .next (replied .notInitialised 0 s)) ∧
  (∀ (s : State) (a b : Lane) (rest : List HostEvent), 2 ^ 61 - 1 ≤ a.toNat →
    s.inputs = .command ⟨0x01000001, a, b⟩ :: rest →
    step s = .next (replied .illegalCommand 0 { s with inputs := rest }))

/-! ### Frames and invariants of the machine -/

/-- 00_scope.md R14: an instruction that answers delivers exactly one response, and touches neither
what the host has still to send, nor the parameter `MAXLEN`, nor the contents the spec leaves
unspecified. -/
def Obligations.EveryCommandAnswersOnce : Prop :=
  ∀ (i : Instr) (s t : State), exec i s = .next t →
    (∃ r, t.responses = r :: s.responses) ∧ t.inputs = s.inputs ∧
    t.maxLen = s.maxLen ∧ t.epoch = s.epoch

/-- 20_memory.md R63: `MUL`, the queries, the read-backs and `CSRR` change nothing: no flag, register,
array entry or symbol; only the response is new. -/
def Obligations.ReadOnlyCommandsChangeNothing : Prop :=
  ∀ (i : Instr) (s t : State), i.readOnly = true → exec i s = .next t →
    ∃ r, t = { s with responses := r :: s.responses }

/-- 00_scope.md R2, 10_state.md R41: the frame of the commands that write. `INIT` writes its slice's
flag, base and table; `BUILD` also its instance; `WSYM` the buffer; `CSRW` the seed. -/
def Obligations.WritingCommandsFrame : Prop :=
  ∀ (i : Instr) (s t : State), exec i s = .next t →
    (i.isWide = false → SameWide s t) ∧ (i.isNarrow = false → SameNarrow s t) ∧
    ((∀ r v, i ≠ .csrw r v) → t.seed = s.seed) ∧
    ((∀ k v, i ≠ .wsym k v) → t.sym = s.sym ∧ ∀ k, symAt t k = symAt s k) ∧
    ((∀ n, i ≠ .buildW n) → t.nW = s.nW ∧ (∀ k, preWAt t k = preWAt s k) ∧ ∀ k, sufWAt t k = sufWAt s k) ∧
    ((∀ n, i ≠ .buildN n) → t.nN = s.nN ∧ (∀ k, preNAt t k = preNAt s k) ∧ ∀ k, sufNAt t k = sufNAt s k) ∧
    ((∀ n, i ≠ .buildW n) → i ≠ .initW → t.initW = s.initW ∧ t.baseW = s.baseW ∧
      ∀ k, powWAt t k = powWAt s k) ∧
    ((∀ n, i ≠ .buildN n) → i ≠ .initN → t.initN = s.initN ∧ ∀ k, powNAt t k = powNAt s k)

/-- 10_state.md R27, R35, R42: once a slice is initialised its base and its table are immutable, whatever
command is executed. -/
def Obligations.BasesAndTablesAreImmutable : Prop :=
  ∀ (i : Instr) (s t : State), exec i s = .next t →
    (s.initW = true → t.initW = true ∧ t.baseW = s.baseW ∧ t.powW = s.powW) ∧
    (s.initN = true → t.initN = true ∧ t.powN = s.powN)

/-- 00_scope.md R2: what a command of one slice answers and leaves in its slice does not depend on the
other slice's base, table, instance or length. -/
def Obligations.SlicesDoNotInterfere : Prop :=
  ∀ (i : Instr) (s s' t : State), SameShared s s' → exec i s = .next t →
    (i.isWide = true → SameWide s s' → ∃ t', exec i s' = .next t' ∧ SameWide t t' ∧
      SameShared t t' ∧ ∃ r, t.responses = r :: s.responses ∧ t'.responses = r :: s'.responses) ∧
    (i.isNarrow = true → SameNarrow s s' → ∃ t', exec i s' = .next t' ∧ SameNarrow t t' ∧
      SameShared t t' ∧ ∃ r, t.responses = r :: s.responses ∧ t'.responses = r :: s'.responses)

/-- 10_state.md R43: the invariant holds right after reset. -/
def Obligations.InvariantAtReset : Prop := MachineInv State.reset

/-- 00_scope.md R5, R10; 10_state.md R27, R29, R30, R35 to R40, R43: every step keeps the invariant:
reduced entries, instances whose arrays fit their length, a base in the middle third and its table
once initialised, the buffer in canonical form. -/
def Obligations.EveryStepKeepsTheInvariant : Prop :=
  ∀ s t : State, MachineInv s → step s = .next t → MachineInv t

/-- 00_scope.md R14, 20_memory.md R65, 30_encoding.md R96, 70_reset_and_hazards.md R246: in a state that
meets the invariant every step answers (no command reads an entry that is not there), and a command,
legal or not, gets exactly one response, whose value is 0 unless its status is `OK`. -/
def Obligations.EveryStepAnswers : Prop :=
  ∀ s : State, MachineInv s → (∃ t, step s = .next t) ∧
    ∀ c rest, s.inputs = .command c :: rest → ∃ t r, step s = .next t ∧
      t.responses = r :: s.responses ∧ t.inputs = rest ∧ (r.status ≠ .ok → r.val = 0)

/-- 10_state.md R41, R34: in a state that meets the invariant, if each slice's instance is the one of
some sequence, so it is after every step. With `WideQueriesHashTheRange` it says what a query answers
in every reachable state. -/
def Obligations.EveryStepKeepsTheInstances : Prop :=
  ∀ s t : State, MachineInv s → (∃ x, WideInstance s x) → (∃ x, NarrowInstance s x) →
    step s = .next t → (∃ x, WideInstance t x) ∧ (∃ x, NarrowInstance t x)

/-- 00_scope.md R9, 10_state.md R31: `MAXLEN` is a constant, 1000000 on this hardware, that no step
changes; for every value of it, one value serves both slices: a construction fails exactly for the
lengths from it on, and each power table has the entries `0 .. MAXLEN-1`. That it is a field of the
state, and so any value, is the model's choice (log entry 9). -/
def Obligations.MaxLenIsOneConstantForBothSlices : Prop :=
  State.reset.maxLen.toNat = 1000000 ∧ (∀ s t : State, step s = .next t → t.maxLen = s.maxLen) ∧
  ∀ (s : State) (n : Lane) (i : Nat),
    (exec (.buildW n) s = .next (replied .capacityExceeded 0 s) ↔ s.maxLen.toNat ≤ n.toNat) ∧
    (exec (.buildN n) s = .next (replied .capacityExceeded 0 s) ↔ s.maxLen.toNat ≤ n.toNat) ∧
    ((powWAt s i).isSome = true ↔ i < s.maxLen.toNat) ∧
    ((powNAt s i).isSome = true ↔ i < s.maxLen.toNat)
end

