-- ==== Sys2Proof/Laws/Arith.lean ====
section
/-! SUPPORT. The arithmetic of the slices: each conditional step is a remainder, and the lists of
accumulators satisfy the recurrences. -/

namespace Sys2Proof.Laws

open Sys2Proof Sys2Proof.Machine

theorem baseN_toNat : Config.baseN.toNat = Config.baseNValue.val := by
  have h := Config.baseNValue.isLt
  simp only [Config.baseN, BitVec.toNat_ofNat]
  omega

theorem baseN_lt : Config.baseN.toNat < Config.mN := by
  rw [baseN_toNat]
  exact Config.baseNValue.isLt

theorem mulWide_lt (a b : Nat) : mulWide a b < Config.mW := Nat.mod_lt _ (by decide)

theorem mulNarrow_lt (a b : Nat) : mulNarrow a b < Config.mN := Nat.mod_lt _ (by decide)

/-- One conditional subtraction is a remainder below twice the modulus. -/
theorem condSub_eq_mod {m t : Nat} (h : t < 2 * m) : condSub m t = t % m := by
  unfold condSub
  split_ifs with hm
  · rw [Nat.mod_eq_sub_mod hm, Nat.mod_eq_of_lt (by omega)]
  · rw [Nat.mod_eq_of_lt (by omega)]

/-- One conditional add brings a difference of residues back into range. -/
theorem subMod_eq_emod {m p q : Nat} (hp : p < m) (hq : q < m) :
    (subMod m p q : Int) = ((p : Int) - q) % m := by
  unfold subMod
  split_ifs with h
  · rw [Int.emod_eq_of_lt (by omega) (by omega)]
    omega
  · rw [← Int.add_emod_right, Int.emod_eq_of_lt (by omega) (by omega)]
    omega

theorem subMod_lt {m p q : Nat} (hp : p < m) (hq : q < m) : subMod m p q < m := by
  unfold subMod
  split_ifs <;> omega

theorem hashStepWide_eq_mod {base acc x : Nat} (hx : x < 2 ^ 32) :
    hashStepWide base acc x = (acc * base + x + 997) % Config.mW := by
  have h := mulWide_lt acc base
  unfold hashStepWide
  rw [condSub_eq_mod]
  · simp only [mulWide, Config.offsetW]
    simp [Nat.add_mod]
  · simp only [Config.offsetW, Config.mW] at *
    omega

theorem hashStepNarrow_eq_mod (base acc x : Nat) :
    hashStepNarrow base acc x = (acc * base + x) % Config.mN := by
  simp only [hashStepNarrow, mulNarrow, Config.offsetN]
  simp [Nat.add_mod]

theorem hashStepWide_lt {base acc x : Nat} (hx : x < 2 ^ 32) :
    hashStepWide base acc x < Config.mW := by
  rw [hashStepWide_eq_mod hx]
  exact Nat.mod_lt _ (by decide)

theorem hashStepNarrow_lt (base acc x : Nat) : hashStepNarrow base acc x < Config.mN :=
  Nat.mod_lt _ (by decide)

/-! ### The lists of accumulators -/

variable {step : Nat → Nat → Nat}

@[simp] theorem accumulate_length (a : Nat) (xs : List Nat) :
    (accumulate step a xs).length = xs.length + 1 := by
  induction xs generalizing a with
  | nil => rfl
  | cons x xs ih => simp [accumulate, ih]

@[simp] theorem accumulate_first (a : Nat) (xs : List Nat) :
    (accumulate step a xs).getD 0 0 = a := by
  cases xs <;> rfl

theorem accumulate_next (a : Nat) {xs : List Nat} {i : Nat} (h : i < xs.length) :
    (accumulate step a xs).getD (i + 1) 0 =
      step ((accumulate step a xs).getD i 0) (xs.getD i 0) := by
  induction xs generalizing a i with
  | nil => simp at h
  | cons x xs ih =>
    cases i with
    | zero => cases xs <;> rfl
    | succ i => simpa [accumulate] using ih (step a x) (i := i) (by simpa using h)

/-- A bound on the start and on every step bounds every accumulator. -/
theorem accumulate_lt {m a : Nat} {xs : List Nat} (ha : a < m)
    (h : ∀ acc, ∀ x ∈ xs, step acc x < m) : ∀ v ∈ accumulate step a xs, v < m := by
  induction xs generalizing a with
  | nil => simpa [accumulate] using ha
  | cons x xs ih =>
    simp only [accumulate, List.forall_mem_cons]
    exact ⟨ha, ih (h a x List.mem_cons_self) fun acc y hy => h acc y (List.mem_cons_of_mem _ hy)⟩

@[simp] theorem prefixAccs_length (xs : List Nat) : (prefixAccs step xs).length = xs.length + 1 :=
  accumulate_length 0 xs

@[simp] theorem suffixAccs_length (xs : List Nat) : (suffixAccs step xs).length = xs.length + 1 := by
  simp [suffixAccs]

theorem prefixAccs_first (xs : List Nat) : (prefixAccs step xs).getD 0 0 = 0 := accumulate_first 0 xs

theorem prefixAccs_next {xs : List Nat} {i : Nat} (h : i < xs.length) :
    (prefixAccs step xs).getD (i + 1) 0 = step ((prefixAccs step xs).getD i 0) (xs.getD i 0) :=
  accumulate_next 0 h

theorem getD_reverse {xs : List Nat} {i : Nat} (h : i < xs.length) :
    xs.reverse.getD i 0 = xs.getD (xs.length - 1 - i) 0 := by
  simp [List.getD_eq_getElem?_getD, List.getElem?_reverse h]

theorem suffixAccs_last (xs : List Nat) : (suffixAccs step xs).getD xs.length 0 = 0 := by
  have e : (accumulate step 0 xs.reverse).length - 1 - xs.length = 0 := by simp
  rw [suffixAccs, getD_reverse (by simp), e, accumulate_first]

theorem suffixAccs_next {xs : List Nat} {i : Nat} (h : i < xs.length) :
    (suffixAccs step xs).getD i 0 = step ((suffixAccs step xs).getD (i + 1) 0) (xs.getD i 0) := by
  have hrev : (accumulate step 0 xs.reverse).length = xs.length + 1 := by simp
  rw [suffixAccs, getD_reverse (by omega), getD_reverse (by omega)]
  have e : (accumulate step 0 xs.reverse).length - 1 - i
      = (accumulate step 0 xs.reverse).length - 1 - (i + 1) + 1 := by omega
  rw [e, accumulate_next 0 (by rw [List.length_reverse]; omega), getD_reverse (by omega)]
  congr 2
  omega

theorem prefixAccs_lt {m : Nat} {xs : List Nat} (hm : 0 < m)
    (h : ∀ acc, ∀ x ∈ xs, step acc x < m) : ∀ v ∈ prefixAccs step xs, v < m :=
  accumulate_lt hm h

theorem suffixAccs_lt {m : Nat} {xs : List Nat} (hm : 0 < m)
    (h : ∀ acc, ∀ x ∈ xs, step acc x < m) : ∀ v ∈ suffixAccs step xs, v < m := by
  simp only [suffixAccs, List.mem_reverse]
  exact accumulate_lt hm fun acc x hx => h acc x (List.mem_reverse.1 hx)

/-- The base a seed gives, as a number: nothing is lost in the 61 bits. -/
theorem deriveBase_toNat (seed : Lane) :
    (deriveBase seed).toNat = Config.midLo + seed.toNat % Config.midLo := by
  have h : seed.toNat % Config.midLo < Config.midLo := Nat.mod_lt _ (by decide)
  simp only [deriveBase, BitVec.toNat_ofNat]
  simp only [Config.midLo] at *
  omega

end Sys2Proof.Laws
end

