-- ==== Sys2Proof/Laws/State.lean ====
section
/-! SUPPORT. One lemma per field per update of the state, so that no proof unfolds a record update. -/

namespace Sys2Proof.Laws

open Sys2Proof Sys2Proof.Machine

/-! ### respond -/

@[simp] theorem respond_seed (st : Status) (v : Lane) (s : State) : (respond st v s).seed = s.seed := rfl
@[simp] theorem respond_initW (st : Status) (v : Lane) (s : State) : (respond st v s).initW = s.initW := rfl
@[simp] theorem respond_initN (st : Status) (v : Lane) (s : State) : (respond st v s).initN = s.initN := rfl
@[simp] theorem respond_baseW (st : Status) (v : Lane) (s : State) : (respond st v s).baseW = s.baseW := rfl
@[simp] theorem respond_powW (st : Status) (v : Lane) (s : State) : (respond st v s).powW = s.powW := rfl
@[simp] theorem respond_powN (st : Status) (v : Lane) (s : State) : (respond st v s).powN = s.powN := rfl
@[simp] theorem respond_sym (st : Status) (v : Lane) (s : State) : (respond st v s).sym = s.sym := rfl
@[simp] theorem respond_nW (st : Status) (v : Lane) (s : State) : (respond st v s).nW = s.nW := rfl
@[simp] theorem respond_preW (st : Status) (v : Lane) (s : State) : (respond st v s).preW = s.preW := rfl
@[simp] theorem respond_sufW (st : Status) (v : Lane) (s : State) : (respond st v s).sufW = s.sufW := rfl
@[simp] theorem respond_nN (st : Status) (v : Lane) (s : State) : (respond st v s).nN = s.nN := rfl
@[simp] theorem respond_preN (st : Status) (v : Lane) (s : State) : (respond st v s).preN = s.preN := rfl
@[simp] theorem respond_sufN (st : Status) (v : Lane) (s : State) : (respond st v s).sufN = s.sufN := rfl
@[simp] theorem respond_maxLen (st : Status) (v : Lane) (s : State) : (respond st v s).maxLen = s.maxLen := rfl
@[simp] theorem respond_epoch (st : Status) (v : Lane) (s : State) : (respond st v s).epoch = s.epoch := rfl
@[simp] theorem respond_inputs (st : Status) (v : Lane) (s : State) : (respond st v s).inputs = s.inputs := rfl
@[simp] theorem respond_responses (st : Status) (v : Lane) (s : State) : (respond st v s).responses = ⟨st, v⟩ :: s.responses := rfl

/-! ### writeSym -/

@[simp] theorem writeSym_seed (k : Nat) (v : Symbol) (s : State) : (writeSym k v s).seed = s.seed := rfl
@[simp] theorem writeSym_initW (k : Nat) (v : Symbol) (s : State) : (writeSym k v s).initW = s.initW := rfl
@[simp] theorem writeSym_initN (k : Nat) (v : Symbol) (s : State) : (writeSym k v s).initN = s.initN := rfl
@[simp] theorem writeSym_baseW (k : Nat) (v : Symbol) (s : State) : (writeSym k v s).baseW = s.baseW := rfl
@[simp] theorem writeSym_powW (k : Nat) (v : Symbol) (s : State) : (writeSym k v s).powW = s.powW := rfl
@[simp] theorem writeSym_powN (k : Nat) (v : Symbol) (s : State) : (writeSym k v s).powN = s.powN := rfl
@[simp] theorem writeSym_sym (k : Nat) (v : Symbol) (s : State) : (writeSym k v s).sym = s.sym.insert k v := rfl
@[simp] theorem writeSym_nW (k : Nat) (v : Symbol) (s : State) : (writeSym k v s).nW = s.nW := rfl
@[simp] theorem writeSym_preW (k : Nat) (v : Symbol) (s : State) : (writeSym k v s).preW = s.preW := rfl
@[simp] theorem writeSym_sufW (k : Nat) (v : Symbol) (s : State) : (writeSym k v s).sufW = s.sufW := rfl
@[simp] theorem writeSym_nN (k : Nat) (v : Symbol) (s : State) : (writeSym k v s).nN = s.nN := rfl
@[simp] theorem writeSym_preN (k : Nat) (v : Symbol) (s : State) : (writeSym k v s).preN = s.preN := rfl
@[simp] theorem writeSym_sufN (k : Nat) (v : Symbol) (s : State) : (writeSym k v s).sufN = s.sufN := rfl
@[simp] theorem writeSym_maxLen (k : Nat) (v : Symbol) (s : State) : (writeSym k v s).maxLen = s.maxLen := rfl
@[simp] theorem writeSym_epoch (k : Nat) (v : Symbol) (s : State) : (writeSym k v s).epoch = s.epoch := rfl
@[simp] theorem writeSym_inputs (k : Nat) (v : Symbol) (s : State) : (writeSym k v s).inputs = s.inputs := rfl
@[simp] theorem writeSym_responses (k : Nat) (v : Symbol) (s : State) : (writeSym k v s).responses = s.responses := rfl

/-! ### fillWide -/

@[simp] theorem fillWide_seed (s : State) : (fillWide s).seed = s.seed := rfl
@[simp] theorem fillWide_initW (s : State) : (fillWide s).initW = true := rfl
@[simp] theorem fillWide_initN (s : State) : (fillWide s).initN = s.initN := rfl
@[simp] theorem fillWide_baseW (s : State) : (fillWide s).baseW = deriveBase s.seed := rfl
@[simp] theorem fillWide_powW (s : State) : (fillWide s).powW = .built (deriveBase s.seed) := rfl
@[simp] theorem fillWide_powN (s : State) : (fillWide s).powN = s.powN := rfl
@[simp] theorem fillWide_sym (s : State) : (fillWide s).sym = s.sym := rfl
@[simp] theorem fillWide_nW (s : State) : (fillWide s).nW = s.nW := rfl
@[simp] theorem fillWide_preW (s : State) : (fillWide s).preW = s.preW := rfl
@[simp] theorem fillWide_sufW (s : State) : (fillWide s).sufW = s.sufW := rfl
@[simp] theorem fillWide_nN (s : State) : (fillWide s).nN = s.nN := rfl
@[simp] theorem fillWide_preN (s : State) : (fillWide s).preN = s.preN := rfl
@[simp] theorem fillWide_sufN (s : State) : (fillWide s).sufN = s.sufN := rfl
@[simp] theorem fillWide_maxLen (s : State) : (fillWide s).maxLen = s.maxLen := rfl
@[simp] theorem fillWide_epoch (s : State) : (fillWide s).epoch = s.epoch := rfl
@[simp] theorem fillWide_inputs (s : State) : (fillWide s).inputs = s.inputs := rfl
@[simp] theorem fillWide_responses (s : State) : (fillWide s).responses = s.responses := rfl

/-! ### fillNarrow -/

@[simp] theorem fillNarrow_seed (s : State) : (fillNarrow s).seed = s.seed := rfl
@[simp] theorem fillNarrow_initW (s : State) : (fillNarrow s).initW = s.initW := rfl
@[simp] theorem fillNarrow_initN (s : State) : (fillNarrow s).initN = true := rfl
@[simp] theorem fillNarrow_baseW (s : State) : (fillNarrow s).baseW = s.baseW := rfl
@[simp] theorem fillNarrow_powW (s : State) : (fillNarrow s).powW = s.powW := rfl
@[simp] theorem fillNarrow_powN (s : State) : (fillNarrow s).powN = .built Config.baseN := rfl
@[simp] theorem fillNarrow_sym (s : State) : (fillNarrow s).sym = s.sym := rfl
@[simp] theorem fillNarrow_nW (s : State) : (fillNarrow s).nW = s.nW := rfl
@[simp] theorem fillNarrow_preW (s : State) : (fillNarrow s).preW = s.preW := rfl
@[simp] theorem fillNarrow_sufW (s : State) : (fillNarrow s).sufW = s.sufW := rfl
@[simp] theorem fillNarrow_nN (s : State) : (fillNarrow s).nN = s.nN := rfl
@[simp] theorem fillNarrow_preN (s : State) : (fillNarrow s).preN = s.preN := rfl
@[simp] theorem fillNarrow_sufN (s : State) : (fillNarrow s).sufN = s.sufN := rfl
@[simp] theorem fillNarrow_maxLen (s : State) : (fillNarrow s).maxLen = s.maxLen := rfl
@[simp] theorem fillNarrow_epoch (s : State) : (fillNarrow s).epoch = s.epoch := rfl
@[simp] theorem fillNarrow_inputs (s : State) : (fillNarrow s).inputs = s.inputs := rfl
@[simp] theorem fillNarrow_responses (s : State) : (fillNarrow s).responses = s.responses := rfl

/-! ### setWide -/

@[simp] theorem setWide_seed (n : Nat) (p q : List Nat) (s : State) : (setWide n p q s).seed = s.seed := rfl
@[simp] theorem setWide_initW (n : Nat) (p q : List Nat) (s : State) : (setWide n p q s).initW = s.initW := rfl
@[simp] theorem setWide_initN (n : Nat) (p q : List Nat) (s : State) : (setWide n p q s).initN = s.initN := rfl
@[simp] theorem setWide_baseW (n : Nat) (p q : List Nat) (s : State) : (setWide n p q s).baseW = s.baseW := rfl
@[simp] theorem setWide_powW (n : Nat) (p q : List Nat) (s : State) : (setWide n p q s).powW = s.powW := rfl
@[simp] theorem setWide_powN (n : Nat) (p q : List Nat) (s : State) : (setWide n p q s).powN = s.powN := rfl
@[simp] theorem setWide_sym (n : Nat) (p q : List Nat) (s : State) : (setWide n p q s).sym = s.sym := rfl
@[simp] theorem setWide_nW (n : Nat) (p q : List Nat) (s : State) : (setWide n p q s).nW = BitVec.ofNat 32 n := rfl
@[simp] theorem setWide_preW (n : Nat) (p q : List Nat) (s : State) : (setWide n p q s).preW = p.map (BitVec.ofNat 61) := rfl
@[simp] theorem setWide_sufW (n : Nat) (p q : List Nat) (s : State) : (setWide n p q s).sufW = q.map (BitVec.ofNat 61) := rfl
@[simp] theorem setWide_nN (n : Nat) (p q : List Nat) (s : State) : (setWide n p q s).nN = s.nN := rfl
@[simp] theorem setWide_preN (n : Nat) (p q : List Nat) (s : State) : (setWide n p q s).preN = s.preN := rfl
@[simp] theorem setWide_sufN (n : Nat) (p q : List Nat) (s : State) : (setWide n p q s).sufN = s.sufN := rfl
@[simp] theorem setWide_maxLen (n : Nat) (p q : List Nat) (s : State) : (setWide n p q s).maxLen = s.maxLen := rfl
@[simp] theorem setWide_epoch (n : Nat) (p q : List Nat) (s : State) : (setWide n p q s).epoch = s.epoch := rfl
@[simp] theorem setWide_inputs (n : Nat) (p q : List Nat) (s : State) : (setWide n p q s).inputs = s.inputs := rfl
@[simp] theorem setWide_responses (n : Nat) (p q : List Nat) (s : State) : (setWide n p q s).responses = s.responses := rfl

/-! ### setNarrow -/

@[simp] theorem setNarrow_seed (n : Nat) (p q : List Nat) (s : State) : (setNarrow n p q s).seed = s.seed := rfl
@[simp] theorem setNarrow_initW (n : Nat) (p q : List Nat) (s : State) : (setNarrow n p q s).initW = s.initW := rfl
@[simp] theorem setNarrow_initN (n : Nat) (p q : List Nat) (s : State) : (setNarrow n p q s).initN = s.initN := rfl
@[simp] theorem setNarrow_baseW (n : Nat) (p q : List Nat) (s : State) : (setNarrow n p q s).baseW = s.baseW := rfl
@[simp] theorem setNarrow_powW (n : Nat) (p q : List Nat) (s : State) : (setNarrow n p q s).powW = s.powW := rfl
@[simp] theorem setNarrow_powN (n : Nat) (p q : List Nat) (s : State) : (setNarrow n p q s).powN = s.powN := rfl
@[simp] theorem setNarrow_sym (n : Nat) (p q : List Nat) (s : State) : (setNarrow n p q s).sym = s.sym := rfl
@[simp] theorem setNarrow_nW (n : Nat) (p q : List Nat) (s : State) : (setNarrow n p q s).nW = s.nW := rfl
@[simp] theorem setNarrow_preW (n : Nat) (p q : List Nat) (s : State) : (setNarrow n p q s).preW = s.preW := rfl
@[simp] theorem setNarrow_sufW (n : Nat) (p q : List Nat) (s : State) : (setNarrow n p q s).sufW = s.sufW := rfl
@[simp] theorem setNarrow_nN (n : Nat) (p q : List Nat) (s : State) : (setNarrow n p q s).nN = BitVec.ofNat 32 n := rfl
@[simp] theorem setNarrow_preN (n : Nat) (p q : List Nat) (s : State) : (setNarrow n p q s).preN = p.map (BitVec.ofNat 30) := rfl
@[simp] theorem setNarrow_sufN (n : Nat) (p q : List Nat) (s : State) : (setNarrow n p q s).sufN = q.map (BitVec.ofNat 30) := rfl
@[simp] theorem setNarrow_maxLen (n : Nat) (p q : List Nat) (s : State) : (setNarrow n p q s).maxLen = s.maxLen := rfl
@[simp] theorem setNarrow_epoch (n : Nat) (p q : List Nat) (s : State) : (setNarrow n p q s).epoch = s.epoch := rfl
@[simp] theorem setNarrow_inputs (n : Nat) (p q : List Nat) (s : State) : (setNarrow n p q s).inputs = s.inputs := rfl
@[simp] theorem setNarrow_responses (n : Nat) (p q : List Nat) (s : State) : (setNarrow n p q s).responses = s.responses := rfl

/-! ### writeSeed -/

@[simp] theorem writeSeed_seed (v : Lane) (s : State) : (writeSeed v s).seed = v := rfl
@[simp] theorem writeSeed_initW (v : Lane) (s : State) : (writeSeed v s).initW = s.initW := rfl
@[simp] theorem writeSeed_initN (v : Lane) (s : State) : (writeSeed v s).initN = s.initN := rfl
@[simp] theorem writeSeed_baseW (v : Lane) (s : State) : (writeSeed v s).baseW = s.baseW := rfl
@[simp] theorem writeSeed_powW (v : Lane) (s : State) : (writeSeed v s).powW = s.powW := rfl
@[simp] theorem writeSeed_powN (v : Lane) (s : State) : (writeSeed v s).powN = s.powN := rfl
@[simp] theorem writeSeed_sym (v : Lane) (s : State) : (writeSeed v s).sym = s.sym := rfl
@[simp] theorem writeSeed_nW (v : Lane) (s : State) : (writeSeed v s).nW = s.nW := rfl
@[simp] theorem writeSeed_preW (v : Lane) (s : State) : (writeSeed v s).preW = s.preW := rfl
@[simp] theorem writeSeed_sufW (v : Lane) (s : State) : (writeSeed v s).sufW = s.sufW := rfl
@[simp] theorem writeSeed_nN (v : Lane) (s : State) : (writeSeed v s).nN = s.nN := rfl
@[simp] theorem writeSeed_preN (v : Lane) (s : State) : (writeSeed v s).preN = s.preN := rfl
@[simp] theorem writeSeed_sufN (v : Lane) (s : State) : (writeSeed v s).sufN = s.sufN := rfl
@[simp] theorem writeSeed_maxLen (v : Lane) (s : State) : (writeSeed v s).maxLen = s.maxLen := rfl
@[simp] theorem writeSeed_epoch (v : Lane) (s : State) : (writeSeed v s).epoch = s.epoch := rfl
@[simp] theorem writeSeed_inputs (v : Lane) (s : State) : (writeSeed v s).inputs = s.inputs := rfl
@[simp] theorem writeSeed_responses (v : Lane) (s : State) : (writeSeed v s).responses = s.responses := rfl

/-! ### dropInput -/

@[simp] theorem dropInput_seed (s : State) : (dropInput s).seed = s.seed := rfl
@[simp] theorem dropInput_initW (s : State) : (dropInput s).initW = s.initW := rfl
@[simp] theorem dropInput_initN (s : State) : (dropInput s).initN = s.initN := rfl
@[simp] theorem dropInput_baseW (s : State) : (dropInput s).baseW = s.baseW := rfl
@[simp] theorem dropInput_powW (s : State) : (dropInput s).powW = s.powW := rfl
@[simp] theorem dropInput_powN (s : State) : (dropInput s).powN = s.powN := rfl
@[simp] theorem dropInput_sym (s : State) : (dropInput s).sym = s.sym := rfl
@[simp] theorem dropInput_nW (s : State) : (dropInput s).nW = s.nW := rfl
@[simp] theorem dropInput_preW (s : State) : (dropInput s).preW = s.preW := rfl
@[simp] theorem dropInput_sufW (s : State) : (dropInput s).sufW = s.sufW := rfl
@[simp] theorem dropInput_nN (s : State) : (dropInput s).nN = s.nN := rfl
@[simp] theorem dropInput_preN (s : State) : (dropInput s).preN = s.preN := rfl
@[simp] theorem dropInput_sufN (s : State) : (dropInput s).sufN = s.sufN := rfl
@[simp] theorem dropInput_maxLen (s : State) : (dropInput s).maxLen = s.maxLen := rfl
@[simp] theorem dropInput_epoch (s : State) : (dropInput s).epoch = s.epoch := rfl
@[simp] theorem dropInput_inputs (s : State) : (dropInput s).inputs = s.inputs.tail := rfl
@[simp] theorem dropInput_responses (s : State) : (dropInput s).responses = s.responses := rfl

/-! ### presentCommand -/

@[simp] theorem presentCommand_seed (c : Command) (s : State) : (presentCommand c s).seed = s.seed := rfl
@[simp] theorem presentCommand_initW (c : Command) (s : State) : (presentCommand c s).initW = s.initW := rfl
@[simp] theorem presentCommand_initN (c : Command) (s : State) : (presentCommand c s).initN = s.initN := rfl
@[simp] theorem presentCommand_baseW (c : Command) (s : State) : (presentCommand c s).baseW = s.baseW := rfl
@[simp] theorem presentCommand_powW (c : Command) (s : State) : (presentCommand c s).powW = s.powW := rfl
@[simp] theorem presentCommand_powN (c : Command) (s : State) : (presentCommand c s).powN = s.powN := rfl
@[simp] theorem presentCommand_sym (c : Command) (s : State) : (presentCommand c s).sym = s.sym := rfl
@[simp] theorem presentCommand_nW (c : Command) (s : State) : (presentCommand c s).nW = s.nW := rfl
@[simp] theorem presentCommand_preW (c : Command) (s : State) : (presentCommand c s).preW = s.preW := rfl
@[simp] theorem presentCommand_sufW (c : Command) (s : State) : (presentCommand c s).sufW = s.sufW := rfl
@[simp] theorem presentCommand_nN (c : Command) (s : State) : (presentCommand c s).nN = s.nN := rfl
@[simp] theorem presentCommand_preN (c : Command) (s : State) : (presentCommand c s).preN = s.preN := rfl
@[simp] theorem presentCommand_sufN (c : Command) (s : State) : (presentCommand c s).sufN = s.sufN := rfl
@[simp] theorem presentCommand_maxLen (c : Command) (s : State) : (presentCommand c s).maxLen = s.maxLen := rfl
@[simp] theorem presentCommand_epoch (c : Command) (s : State) : (presentCommand c s).epoch = s.epoch := rfl
@[simp] theorem presentCommand_inputs (c : Command) (s : State) : (presentCommand c s).inputs = .command c :: s.inputs := rfl
@[simp] theorem presentCommand_responses (c : Command) (s : State) : (presentCommand c s).responses = s.responses := rfl

/-! ### replied -/

@[simp] theorem replied_seed (st : Status) (v : Nat) (s : State) : (replied st v s).seed = s.seed := rfl
@[simp] theorem replied_initW (st : Status) (v : Nat) (s : State) : (replied st v s).initW = s.initW := rfl
@[simp] theorem replied_initN (st : Status) (v : Nat) (s : State) : (replied st v s).initN = s.initN := rfl
@[simp] theorem replied_baseW (st : Status) (v : Nat) (s : State) : (replied st v s).baseW = s.baseW := rfl
@[simp] theorem replied_powW (st : Status) (v : Nat) (s : State) : (replied st v s).powW = s.powW := rfl
@[simp] theorem replied_powN (st : Status) (v : Nat) (s : State) : (replied st v s).powN = s.powN := rfl
@[simp] theorem replied_sym (st : Status) (v : Nat) (s : State) : (replied st v s).sym = s.sym := rfl
@[simp] theorem replied_nW (st : Status) (v : Nat) (s : State) : (replied st v s).nW = s.nW := rfl
@[simp] theorem replied_preW (st : Status) (v : Nat) (s : State) : (replied st v s).preW = s.preW := rfl
@[simp] theorem replied_sufW (st : Status) (v : Nat) (s : State) : (replied st v s).sufW = s.sufW := rfl
@[simp] theorem replied_nN (st : Status) (v : Nat) (s : State) : (replied st v s).nN = s.nN := rfl
@[simp] theorem replied_preN (st : Status) (v : Nat) (s : State) : (replied st v s).preN = s.preN := rfl
@[simp] theorem replied_sufN (st : Status) (v : Nat) (s : State) : (replied st v s).sufN = s.sufN := rfl
@[simp] theorem replied_maxLen (st : Status) (v : Nat) (s : State) : (replied st v s).maxLen = s.maxLen := rfl
@[simp] theorem replied_epoch (st : Status) (v : Nat) (s : State) : (replied st v s).epoch = s.epoch := rfl
@[simp] theorem replied_inputs (st : Status) (v : Nat) (s : State) : (replied st v s).inputs = s.inputs := rfl
@[simp] theorem replied_responses (st : Status) (v : Nat) (s : State) : (replied st v s).responses = ⟨st, BitVec.ofNat 64 v⟩ :: s.responses := rfl

/-! ### hostReset -/

@[simp] theorem hostReset_seed (strap : Lane) (s : State) : (hostReset strap s).seed = strap := rfl
@[simp] theorem hostReset_initW (strap : Lane) (s : State) : (hostReset strap s).initW = false := rfl
@[simp] theorem hostReset_initN (strap : Lane) (s : State) : (hostReset strap s).initN = false := rfl
@[simp] theorem hostReset_baseW (strap : Lane) (s : State) : (hostReset strap s).baseW = 0 := rfl
@[simp] theorem hostReset_powW (strap : Lane) (s : State) : (hostReset strap s).powW = .unspecified := rfl
@[simp] theorem hostReset_powN (strap : Lane) (s : State) : (hostReset strap s).powN = .unspecified := rfl
@[simp] theorem hostReset_sym (strap : Lane) (s : State) : (hostReset strap s).sym = [] := rfl
@[simp] theorem hostReset_nW (strap : Lane) (s : State) : (hostReset strap s).nW = 0 := rfl
@[simp] theorem hostReset_preW (strap : Lane) (s : State) : (hostReset strap s).preW = [0] := rfl
@[simp] theorem hostReset_sufW (strap : Lane) (s : State) : (hostReset strap s).sufW = [0] := rfl
@[simp] theorem hostReset_nN (strap : Lane) (s : State) : (hostReset strap s).nN = 0 := rfl
@[simp] theorem hostReset_preN (strap : Lane) (s : State) : (hostReset strap s).preN = [0] := rfl
@[simp] theorem hostReset_sufN (strap : Lane) (s : State) : (hostReset strap s).sufN = [0] := rfl
@[simp] theorem hostReset_maxLen (strap : Lane) (s : State) : (hostReset strap s).maxLen = s.maxLen := rfl
@[simp] theorem hostReset_epoch (strap : Lane) (s : State) : (hostReset strap s).epoch = s.epoch + 1 := rfl
@[simp] theorem hostReset_inputs (strap : Lane) (s : State) : (hostReset strap s).inputs = s.inputs := rfl
@[simp] theorem hostReset_responses (strap : Lane) (s : State) : (hostReset strap s).responses = s.responses := rfl

end Sys2Proof.Laws
end

