-- ==== Sys2Proof/Laws/Memory.lean ====
section
/-! SUPPORT. The symbol buffer: read after write, and the canonical form that every write keeps. -/

namespace Sys2Proof.Laws

open Sys2Proof Sys2Proof.Machine

@[simp] theorem lookup_insert_same (k : Nat) (v : Symbol) (m : Memory) :
    (m.insert k v).lookup k = some v := by
  induction m with
  | nil => simp [Memory.insert, Memory.lookup]
  | cons c m ih =>
    obtain ⟨j, x⟩ := c
    simp only [Memory.insert]
    split_ifs with h1 h2
    · simp [Memory.lookup]
    · simp [Memory.lookup]
    · simpa [Memory.lookup, Ne.symm h2] using ih

theorem lookup_insert_other {j k : Nat} (h : j ≠ k) (v : Symbol) (m : Memory) :
    (m.insert k v).lookup j = m.lookup j := by
  induction m with
  | nil => simp [Memory.insert, Memory.lookup, h.symm]
  | cons c m ih =>
    obtain ⟨i, x⟩ := c
    simp only [Memory.insert]
    split_ifs with h1 h2
    · simp [Memory.lookup, h.symm]
    · subst h2
      simp [Memory.lookup, h.symm]
    · simp [Memory.lookup, ih]

theorem lookup_of_unlisted {k : Nat} {m : Memory} (h : ∀ c ∈ m, c.1 ≠ k) : m.lookup k = none := by
  induction m with
  | nil => rfl
  | cons c m ih =>
    obtain ⟨j, x⟩ := c
    simp only [List.forall_mem_cons] at h
    simpa [Memory.lookup, h.1] using ih h.2

/-- A write adds at most its own index. -/
theorem mem_insert_fst {k : Nat} {v : Symbol} {m : Memory} {c : Nat × Symbol}
    (h : c ∈ m.insert k v) : c.1 = k ∨ ∃ d ∈ m, d.1 = c.1 := by
  induction m with
  | nil =>
    simp only [Memory.insert, List.mem_singleton] at h
    exact .inl (by simp [h])
  | cons d m ih =>
    obtain ⟨j, x⟩ := d
    simp only [Memory.insert] at h
    split_ifs at h with h1 h2
    · rcases List.mem_cons.1 h with rfl | h
      · exact .inl rfl
      · exact .inr ⟨c, h, rfl⟩
    · rcases List.mem_cons.1 h with rfl | h
      · exact .inl rfl
      · exact .inr ⟨c, List.mem_cons_of_mem _ h, rfl⟩
    · rcases List.mem_cons.1 h with rfl | h
      · exact .inr ⟨_, List.mem_cons_self, rfl⟩
      · rcases ih h with h | ⟨d, hd, he⟩
        · exact .inl h
        · exact .inr ⟨d, List.mem_cons_of_mem _ hd, he⟩

theorem insert_rising {k : Nat} {v : Symbol} {m : Memory}
    (h : (m.map Prod.fst).Pairwise (· < ·)) : ((m.insert k v).map Prod.fst).Pairwise (· < ·) := by
  induction m with
  | nil => simp [Memory.insert]
  | cons c m ih =>
    obtain ⟨j, x⟩ := c
    simp only [List.map_cons, List.pairwise_cons, List.mem_map] at h
    obtain ⟨hj, hm⟩ := h
    simp only [Memory.insert]
    split_ifs with h1 h2
    · simp only [List.map_cons, List.pairwise_cons, List.mem_cons, List.mem_map]
      refine ⟨?_, hj, hm⟩
      rintro i (rfl | hi)
      · exact h1
      · exact h1.trans (hj i hi)
    · subst h2
      simpa only [List.map_cons, List.pairwise_cons, List.mem_map] using ⟨hj, hm⟩
    · simp only [List.map_cons, List.pairwise_cons, List.mem_map]
      refine ⟨?_, ih hm⟩
      rintro i ⟨c, hc, rfl⟩
      rcases mem_insert_fst hc with h | ⟨d, hd, he⟩
      · omega
      · exact he ▸ hj _ ⟨d, hd, rfl⟩

/-- A write keeps the canonical form. -/
theorem insert_wf {k : Nat} {v : Symbol} {m : Memory} (h : m.wf) : (m.insert k v).wf :=
  insert_rising h

/-- A write inside the buffer keeps every index inside it. -/
theorem insert_below {k bound : Nat} {v : Symbol} {m : Memory} (hk : k < bound) (h : m.below bound) :
    (m.insert k v).below bound := by
  intro c hc
  rcases mem_insert_fst hc with he | ⟨d, hd, he⟩
  · exact he ▸ hk
  · exact he ▸ h d hd

theorem reset_memory_wf (strap : Lane) (maxLen : BitVec 32) (epoch : Nat) :
    (State.resetWith strap maxLen epoch).sym.wf := by
  simp [State.resetWith, Memory.wf]

/-- In canonical form equal contents are equal data. -/
theorem memory_ext {m n : Memory} (hm : (m.map Prod.fst).Pairwise (· < ·))
    (hn : (n.map Prod.fst).Pairwise (· < ·)) (h : ∀ k, m.lookup k = n.lookup k) : m = n := by
  induction m generalizing n with
  | nil =>
    cases n with
    | nil => rfl
    | cons d n => simpa [Memory.lookup] using h d.1
  | cons c m ih =>
    cases n with
    | nil => simpa [Memory.lookup] using h c.1
    | cons d n =>
      obtain ⟨i, x⟩ := c
      obtain ⟨j, y⟩ := d
      simp only [List.map_cons, List.pairwise_cons, List.mem_map] at hm hn
      have below {a : Nat} {l : Memory} (hl : ∀ b, (∃ e ∈ l, e.1 = b) → a < b) {b : Nat}
          (hb : b ≤ a) : l.lookup b = none :=
        lookup_of_unlisted fun e he hb' => by have := hl e.1 ⟨e, he, rfl⟩; omega
      have hij : i = j := by
        rcases Nat.lt_trichotomy i j with hlt | heq | hlt
        · simpa [Memory.lookup, hlt.ne', below hn.1 hlt.le] using h i
        · exact heq
        · simpa [Memory.lookup, hlt.ne', below hm.1 hlt.le] using h j
      subst hij
      have hxy : x = y := by simpa [Memory.lookup] using h i
      subst hxy
      congr 1
      refine ih hm.2 hn.2 fun k => ?_
      by_cases hk : i = k
      · subst hk
        rw [below hm.1 le_rfl, below hn.1 le_rfl]
      · simpa [Memory.lookup, hk] using h k

/-! ### Through the state -/

@[simp] theorem symAt_writeSym_same (k : Nat) (v : Symbol) (s : State) :
    symAt (writeSym k v s) k = v := by
  simp [symAt]

theorem symAt_writeSym_other {j k : Nat} (h : j ≠ k) (v : Symbol) (s : State) :
    symAt (writeSym k v s) j = symAt s j := by
  simp [symAt, unlistedSym, lookup_insert_other h]

theorem symAt_of_unlisted {s : State} {k : Nat} (h : ∀ c ∈ s.sym, c.1 ≠ k) :
    symAt s k = Config.unwrittenSym s.epoch k := by
  simp [symAt, unlistedSym, lookup_of_unlisted h]

/-- What `sym[k]` reads depends on the buffer and the count of resets alone. -/
theorem symAt_congr {s t : State} (h : s.sym = t.sym) (he : s.epoch = t.epoch) (k : Nat) :
    symAt s k = symAt t k := by
  simp [symAt, unlistedSym, h, he]

theorem symbols_congr {s t : State} (h : s.sym = t.sym) (he : s.epoch = t.epoch) (n : Nat) :
    symbols s n = symbols t n := by
  simp [symbols, symAt_congr h he]

@[simp] theorem symbols_length (s : State) (n : Nat) : (symbols s n).length = n := by
  simp [symbols]

theorem symbols_getD {s : State} {n k : Nat} (h : k < n) :
    (symbols s n).getD k 0 = (symAt s k).toNat := by
  simp [symbols, List.getD_eq_getElem?_getD, h]

theorem symbols_lt {s : State} {n x : Nat} (h : x ∈ symbols s n) : x < 2 ^ 32 := by
  simp only [symbols, List.mem_map] at h
  obtain ⟨k, -, rfl⟩ := h
  exact (symAt s k).isLt

end Sys2Proof.Laws
end

