-- ==== Sys2Proof/Laws/Ops.lean ====
section
/-! SUPPORT. What each shared operation does, once: citing these a proof need not unfold them. -/

namespace Sys2Proof.Laws

open Sys2Proof Sys2Proof.Machine

/-! ### Answering and failing -/

theorem answer_eq (v : Lane) (s : State) : answer v s = .next (respond .ok v s) := rfl

theorem raiseStatus_eq (st : Status) (s : State) : raiseStatus st s = .next (replied st 0 s) := rfl

/-- A response of a 64-bit value is the response of its number. -/
theorem respond_eq_replied (st : Status) (v : Lane) (s : State) :
    respond st v s = replied st v.toNat s := by
  simp [respond, replied]

/-- An answer zero-extended from a narrower entry is the answer of its number. -/
theorem answer_setWidth {w : Nat} (hw : w ≤ 64) (v : BitVec w) (s : State) :
    answer (v.setWidth 64) s = .next (replied .ok v.toNat s) := by
  rw [answer_eq, respond_eq_replied, BitVec.toNat_setWidth, Nat.mod_eq_of_lt]
  exact v.isLt.trans_le (Nat.pow_le_pow_right (by decide) hw)

/-- What `withEntry` can do: go on with the entry that is there, or stop by name. -/
theorem withEntry_next {w : Nat} {a : ArrayName} {i : Nat} {e : Option (BitVec w)}
    {k : BitVec w → Result} {t : State} :
    withEntry a i e k = .next t ↔ ∃ v, e = some v ∧ k v = .next t := by
  cases e <;> simp [withEntry]

@[simp] theorem withEntry_some {w : Nat} (a : ArrayName) (i : Nat) (v : BitVec w)
    (k : BitVec w → Result) : withEntry a i (some v) k = k v := rfl

theorem answerEntry_some {w : Nat} (hw : w ≤ 64) (a : ArrayName) (i : Nat) (v : BitVec w)
    (s : State) : answerEntry a i (some v) s = .next (replied .ok v.toNat s) :=
  answer_setWidth hw v s

/-- What `answerEntry` can do. -/
theorem answerEntry_next {w : Nat} (hw : w ≤ 64) {a : ArrayName} {i : Nat} {e : Option (BitVec w)}
    {s t : State} : answerEntry a i e s = .next t ↔ ∃ v, e = some v ∧ t = replied .ok v.toNat s := by
  cases e with
  | none => simp [answerEntry, withEntry]
  | some v =>
    rw [answerEntry_some hw]
    simp [eq_comm]

/-! ### The arrays -/

theorem powWAt_of_lt {s : State} {i : Nat} (h : i < s.maxLen.toNat) :
    powWAt s i = some (tableEntry Config.mW (Config.unbuiltPowW s.epoch) s.powW i) := by
  simp [powWAt, h]

theorem powNAt_of_lt {s : State} {i : Nat} (h : i < s.maxLen.toNat) :
    powNAt s i = some (tableEntry Config.mN (Config.unbuiltPowN s.epoch) s.powN i) := by
  simp [powNAt, h]

/-- An entry of a built wide table, as a number. -/
theorem powWAt_built {s : State} {base : WideEntry} (hb : s.powW = .built base) {i : Nat}
    (h : i < s.maxLen.toNat) : entryNum (powWAt s i) = base.toNat ^ i % Config.mW := by
  have hlt : base.toNat ^ i % Config.mW < Config.mW := Nat.mod_lt _ (by decide)
  rw [powWAt_of_lt h, hb]
  simp only [entryNum, tableEntry, Option.getD_some, BitVec.toNat_ofNat]
  exact Nat.mod_eq_of_lt (hlt.trans (by decide))

/-- An entry of a built narrow table, as a number. -/
theorem powNAt_built {s : State} {base : NarrowEntry} (hb : s.powN = .built base) {i : Nat}
    (h : i < s.maxLen.toNat) : entryNum (powNAt s i) = base.toNat ^ i % Config.mN := by
  have hlt : base.toNat ^ i % Config.mN < Config.mN := Nat.mod_lt _ (by decide)
  rw [powNAt_of_lt h, hb]
  simp only [entryNum, tableEntry, Option.getD_some, BitVec.toNat_ofNat]
  exact Nat.mod_eq_of_lt (hlt.trans (by decide))

/-- An entry that is there is the entry of its number. -/
theorem eq_some_of_entryNum {w : Nat} {e : Option (BitVec w)} (h : e.isSome = true) :
    e = some (BitVec.ofNat w (entryNum e)) := by
  cases e with
  | none => simp at h
  | some v => simp [entryNum]

/-! ### Initialisation -/

theorem initWide_of_init {s : State} (h : s.initW = true) : initWide s = s := by
  simp [initWide, h]

theorem initWide_of_not_init {s : State} (h : s.initW = false) : initWide s = fillWide s := by
  simp [initWide, h]

theorem initNarrow_of_init {s : State} (h : s.initN = true) : initNarrow s = s := by
  simp [initNarrow, h]

theorem initNarrow_of_not_init {s : State} (h : s.initN = false) : initNarrow s = fillNarrow s := by
  simp [initNarrow, h]

/-- Everything `InitW()` can do: it writes the flag, the base and the table. -/
theorem initWide_frame (s : State) : initWide s =
    { s with initW := true, baseW := (initWide s).baseW, powW := (initWide s).powW } := by
  cases h : s.initW
  · rw [initWide_of_not_init h]
    rfl
  · rw [initWide_of_init h, ← h]

/-- Everything `InitN()` can do: it writes the flag and the table. -/
theorem initNarrow_frame (s : State) : initNarrow s =
    { s with initN := true, powN := (initNarrow s).powN } := by
  cases h : s.initN
  · rw [initNarrow_of_not_init h]
    rfl
  · rw [initNarrow_of_init h, ← h]

/-! ### Construction -/

/-- Everything `BUILD.W` writes: the instance, after the initialisation. -/
theorem buildWide_frame (n : Nat) (s : State) : buildWide n s =
    { initWide s with
      nW := BitVec.ofNat 32 n, preW := (buildWide n s).preW, sufW := (buildWide n s).sufW } := rfl

/-- Everything `BUILD.N` writes: the instance, after the initialisation. -/
theorem buildNarrow_frame (n : Nat) (s : State) : buildNarrow n s =
    { initNarrow s with
      nN := BitVec.ofNat 32 n, preN := (buildNarrow n s).preN, sufN := (buildNarrow n s).sufN } := rfl

theorem entryNum_map_getElem {w m : Nat} (hw : m ≤ 2 ^ w) {p : List Nat} (hp : ∀ v ∈ p, v < m)
    (i : Nat) : entryNum ((p.map (BitVec.ofNat w))[i]?) = p.getD i 0 := by
  cases h : p[i]? with
  | none => simp [entryNum, h, List.getD_eq_getElem?_getD]
  | some v =>
    have hv := hp v (List.mem_of_getElem? h)
    simp [entryNum, h, List.getD_eq_getElem?_getD, Nat.mod_eq_of_lt (hv.trans_le hw)]

end Sys2Proof.Laws
end

