-- ==== Sys2Proof/Laws/Build.lean ====
section
/-! SUPPORT. What the initialisations and `buildWide`, `buildNarrow` leave: the lemmas to cite in place
of unfolding them. -/

namespace Sys2Proof.Laws

open Sys2Proof Sys2Proof.Machine

@[simp] theorem initWide_initW (s : State) : (initWide s).initW = true := by rw [initWide_frame]
@[simp] theorem initWide_seed (s : State) : (initWide s).seed = s.seed := by rw [initWide_frame]
@[simp] theorem initWide_sym (s : State) : (initWide s).sym = s.sym := by rw [initWide_frame]
@[simp] theorem initWide_maxLen (s : State) : (initWide s).maxLen = s.maxLen := by rw [initWide_frame]
@[simp] theorem initWide_epoch (s : State) : (initWide s).epoch = s.epoch := by rw [initWide_frame]
@[simp] theorem initWide_inputs (s : State) : (initWide s).inputs = s.inputs := by rw [initWide_frame]
@[simp] theorem initWide_responses (s : State) : (initWide s).responses = s.responses := by
  rw [initWide_frame]
@[simp] theorem initWide_nW (s : State) : (initWide s).nW = s.nW := by rw [initWide_frame]
@[simp] theorem initWide_preW (s : State) : (initWide s).preW = s.preW := by rw [initWide_frame]
@[simp] theorem initWide_sufW (s : State) : (initWide s).sufW = s.sufW := by rw [initWide_frame]
@[simp] theorem initWide_initN (s : State) : (initWide s).initN = s.initN := by rw [initWide_frame]
@[simp] theorem initWide_powN (s : State) : (initWide s).powN = s.powN := by rw [initWide_frame]
@[simp] theorem initWide_nN (s : State) : (initWide s).nN = s.nN := by rw [initWide_frame]
@[simp] theorem initWide_preN (s : State) : (initWide s).preN = s.preN := by rw [initWide_frame]
@[simp] theorem initWide_sufN (s : State) : (initWide s).sufN = s.sufN := by rw [initWide_frame]

@[simp] theorem initNarrow_initN (s : State) : (initNarrow s).initN = true := by rw [initNarrow_frame]
@[simp] theorem initNarrow_seed (s : State) : (initNarrow s).seed = s.seed := by rw [initNarrow_frame]
@[simp] theorem initNarrow_sym (s : State) : (initNarrow s).sym = s.sym := by rw [initNarrow_frame]
@[simp] theorem initNarrow_maxLen (s : State) : (initNarrow s).maxLen = s.maxLen := by rw [initNarrow_frame]
@[simp] theorem initNarrow_epoch (s : State) : (initNarrow s).epoch = s.epoch := by rw [initNarrow_frame]
@[simp] theorem initNarrow_inputs (s : State) : (initNarrow s).inputs = s.inputs := by
  rw [initNarrow_frame]
@[simp] theorem initNarrow_responses (s : State) : (initNarrow s).responses = s.responses := by
  rw [initNarrow_frame]
@[simp] theorem initNarrow_nN (s : State) : (initNarrow s).nN = s.nN := by rw [initNarrow_frame]
@[simp] theorem initNarrow_preN (s : State) : (initNarrow s).preN = s.preN := by rw [initNarrow_frame]
@[simp] theorem initNarrow_sufN (s : State) : (initNarrow s).sufN = s.sufN := by rw [initNarrow_frame]
@[simp] theorem initNarrow_initW (s : State) : (initNarrow s).initW = s.initW := by rw [initNarrow_frame]
@[simp] theorem initNarrow_baseW (s : State) : (initNarrow s).baseW = s.baseW := by rw [initNarrow_frame]
@[simp] theorem initNarrow_powW (s : State) : (initNarrow s).powW = s.powW := by rw [initNarrow_frame]
@[simp] theorem initNarrow_nW (s : State) : (initNarrow s).nW = s.nW := by rw [initNarrow_frame]
@[simp] theorem initNarrow_preW (s : State) : (initNarrow s).preW = s.preW := by rw [initNarrow_frame]
@[simp] theorem initNarrow_sufW (s : State) : (initNarrow s).sufW = s.sufW := by rw [initNarrow_frame]

@[simp] theorem buildWide_maxLen (n : Nat) (s : State) : (buildWide n s).maxLen = s.maxLen :=
  initWide_maxLen s

@[simp] theorem buildNarrow_maxLen (n : Nat) (s : State) : (buildNarrow n s).maxLen = s.maxLen :=
  initNarrow_maxLen s

/-- Every step over symbols of the buffer stays below the wide modulus. -/
theorem hashStepWide_symbols_lt (base n : Nat) (s : State) :
    ∀ acc, ∀ x ∈ symbols s n, hashStepWide base acc x < Config.mW :=
  fun _ _ hx => hashStepWide_lt (symbols_lt hx)

theorem hashStepNarrow_symbols_lt (base n : Nat) (s : State) :
    ∀ acc, ∀ x ∈ symbols s n, hashStepNarrow base acc x < Config.mN :=
  fun _ _ _ => hashStepNarrow_lt _ _ _

/-- Narrowing reduced numbers to entries leaves them reduced. -/
theorem map_ofNat_reduced {m w : Nat} {p : List Nat} (h : ∀ v ∈ p, v < m) :
    ∀ v ∈ p.map (BitVec.ofNat w), v.toNat < m := by
  intro v hv
  obtain ⟨u, hu, rfl⟩ := List.mem_map.1 hv
  exact Nat.lt_of_le_of_lt (by simp [Nat.mod_le]) (h u hu)

/-- A length below `MAXLEN` fits the 32 bits of `n_w`. -/
theorem buildWide_nW {n : Nat} {s : State} (hn : n < s.maxLen.toNat) :
    (buildWide n s).nW.toNat = n := by
  simp only [buildWide, setWide_nW, BitVec.toNat_ofNat]
  exact Nat.mod_eq_of_lt (hn.trans s.maxLen.isLt)

/-- A length below `MAXLEN` fits the 32 bits of `n_n`. -/
theorem buildNarrow_nN {n : Nat} {s : State} (hn : n < s.maxLen.toNat) :
    (buildNarrow n s).nN.toNat = n := by
  simp only [buildNarrow, setNarrow_nN, BitVec.toNat_ofNat]
  exact Nat.mod_eq_of_lt (hn.trans s.maxLen.isLt)

theorem buildWide_preW_reduced (n : Nat) (s : State) :
    ∀ v ∈ (buildWide n s).preW, v.toNat < Config.mW :=
  map_ofNat_reduced (prefixAccs_lt (by decide) (hashStepWide_symbols_lt _ _ _))

theorem buildWide_sufW_reduced (n : Nat) (s : State) :
    ∀ v ∈ (buildWide n s).sufW, v.toNat < Config.mW :=
  map_ofNat_reduced (suffixAccs_lt (by decide) (hashStepWide_symbols_lt _ _ _))

theorem buildNarrow_preN_reduced (n : Nat) (s : State) :
    ∀ v ∈ (buildNarrow n s).preN, v.toNat < Config.mN :=
  map_ofNat_reduced (prefixAccs_lt (by decide) (hashStepNarrow_symbols_lt _ _ _))

theorem buildNarrow_sufN_reduced (n : Nat) (s : State) :
    ∀ v ∈ (buildNarrow n s).sufN, v.toNat < Config.mN :=
  map_ofNat_reduced (suffixAccs_lt (by decide) (hashStepNarrow_symbols_lt _ _ _))

/-- Entry `i` of `pre_w` after `buildWide`, as a number. -/
theorem preWAt_buildWide (n : Nat) (s : State) (i : Nat) :
    entryNum (preWAt (buildWide n s) i) =
      (prefixAccs (hashStepWide (initWide s).baseW.toNat) (symbols s n)).getD i 0 := by
  rw [← symbols_congr (initWide_sym s) (initWide_epoch s)]
  exact entryNum_map_getElem (by decide) (prefixAccs_lt (by decide) (hashStepWide_symbols_lt _ _ _)) i

/-- Entry `i + 1` of `suf_w` after `buildWide`, as a number. -/
theorem sufWAt_buildWide (n : Nat) (s : State) (i : Nat) :
    entryNum (sufWAt (buildWide n s) (i + 1)) =
      (suffixAccs (hashStepWide (initWide s).baseW.toNat) (symbols s n)).getD i 0 := by
  rw [← symbols_congr (initWide_sym s) (initWide_epoch s)]
  exact entryNum_map_getElem (by decide) (suffixAccs_lt (by decide) (hashStepWide_symbols_lt _ _ _)) i

/-- Entry `i` of `pre_n` after `buildNarrow`, as a number. -/
theorem preNAt_buildNarrow (n : Nat) (s : State) (i : Nat) :
    entryNum (preNAt (buildNarrow n s) i) =
      (prefixAccs (hashStepNarrow Config.baseN.toNat) (symbols s n)).getD i 0 := by
  rw [← symbols_congr (initNarrow_sym s) (initNarrow_epoch s)]
  exact entryNum_map_getElem (by decide) (prefixAccs_lt (by decide) (hashStepNarrow_symbols_lt _ _ _)) i

/-- Entry `i` of `suf_n` after `buildNarrow`, as a number. -/
theorem sufNAt_buildNarrow (n : Nat) (s : State) (i : Nat) :
    entryNum (sufNAt (buildNarrow n s) i) =
      (suffixAccs (hashStepNarrow Config.baseN.toNat) (symbols s n)).getD i 0 := by
  rw [← symbols_congr (initNarrow_sym s) (initNarrow_epoch s)]
  exact entryNum_map_getElem (by decide) (suffixAccs_lt (by decide) (hashStepNarrow_symbols_lt _ _ _)) i

end Sys2Proof.Laws
end

