-- ==== Sys2Proof/Laws/Decode.lean ====
section
/-! SUPPORT. What each format of the decoder accepts, once. -/

namespace Sys2Proof.Laws

open Sys2Proof

theorem csrOfNumber_eq_some {n : Nat} {r : Csr} : csrOfNumber n = some r ↔ n = csrNumber r := by
  constructor
  · intro h
    unfold csrOfNumber at h
    split at h <;> cases h <;> rfl
  · rintro rfl
    cases r <;> rfl

theorem writable_iff {r : Csr} : r.writable = true ↔ r = .seed := by
  cases r <;> simp [Csr.writable]

/-- Format V accepts a word whose reserved bits are 0; bit 23 selects the slice. -/
theorem decodeFormatV_eq_ok {w : Word} {x y i : Instr} :
    decodeFormatV w x y = .ok i ↔
      bitField w 22 0 = 0 ∧ ((bitField w 23 23 = 0 ∧ i = x) ∨ (bitField w 23 23 ≠ 0 ∧ i = y)) := by
  by_cases h1 : bitField w 22 0 = 0 <;> by_cases h2 : bitField w 23 23 = 0 <;>
    simp [decodeFormatV, h1, h2, eq_comm]

/-- Format Z accepts a word whose reserved bits are 0. -/
theorem decodeFormatZ_eq_ok {w : Word} {x i : Instr} :
    decodeFormatZ w x = .ok i ↔ bitField w 23 0 = 0 ∧ i = x := by
  by_cases h1 : bitField w 23 0 = 0 <;> simp [decodeFormatZ, h1, eq_comm]

/-- Format C accepts a word whose reserved bits are 0 and whose low byte numbers a register. -/
theorem decodeFormatC_eq_ok {w : Word} {k : Csr → Except DecodeError Instr} {i : Instr} :
    decodeFormatC w k = .ok i ↔
      bitField w 23 8 = 0 ∧ ∃ r, bitField w 7 0 = csrNumber r ∧ k r = .ok i := by
  by_cases h1 : bitField w 23 8 = 0
  · cases h2 : csrOfNumber (bitField w 7 0) with
    | none =>
      have : ∀ r, bitField w 7 0 ≠ csrNumber r := fun r h => by
        rw [csrOfNumber_eq_some.2 h] at h2
        cases h2
      simp [decodeFormatC, h1, h2, this]
    | some r =>
      have hr := csrOfNumber_eq_some.1 h2
      have inj : ∀ q, csrNumber r = csrNumber q → r = q := fun q => by
        cases r <;> cases q <;> simp [csrNumber]
      have e : decodeFormatC w k = k r := by simp [decodeFormatC, h1, h2]
      rw [e]
      exact ⟨fun h => ⟨h1, r, hr, h⟩, fun ⟨_, q, hq, h⟩ => inj q (hr.symm.trans hq) ▸ h⟩
  · simp [decodeFormatC, h1]

theorem decodeCsrw_eq_ok {v : Lane} {r : Csr} {i : Instr} :
    decodeCsrw v r = .ok i ↔ r = .seed ∧ i = .csrw .seed v := by
  cases r <;> simp [decodeCsrw, Csr.writable, eq_comm]

/-! ### The format of each opcode -/

variable {w : Word} {a b : Lane}

theorem decode_opcode_01 (h : bitField w 31 24 = 0x01) :
    decode ⟨w, a, b⟩ = decodeFormatV w (.mulW a b) (.mulN a b) := by
  simp only [decode, h]

theorem decode_opcode_02 (h : bitField w 31 24 = 0x02) :
    decode ⟨w, a, b⟩ = decodeFormatV w .initW .initN := by
  simp only [decode, h]

theorem decode_opcode_03 (h : bitField w 31 24 = 0x03) :
    decode ⟨w, a, b⟩ = decodeFormatV w (.buildW a) (.buildN a) := by
  simp only [decode, h]

theorem decode_opcode_04 (h : bitField w 31 24 = 0x04) :
    decode ⟨w, a, b⟩ = decodeFormatV w (.gethW a b) (.gethN a b) := by
  simp only [decode, h]

theorem decode_opcode_05 (h : bitField w 31 24 = 0x05) :
    decode ⟨w, a, b⟩ = decodeFormatV w (.revhW a b) (.revhN a b) := by
  simp only [decode, h]

theorem decode_opcode_06 (h : bitField w 31 24 = 0x06) :
    decode ⟨w, a, b⟩ = decodeFormatV w (.rdpowW a) (.rdpowN a) := by
  simp only [decode, h]

theorem decode_opcode_07 (h : bitField w 31 24 = 0x07) :
    decode ⟨w, a, b⟩ = decodeFormatV w (.rdpreW a) (.rdpreN a) := by
  simp only [decode, h]

theorem decode_opcode_08 (h : bitField w 31 24 = 0x08) :
    decode ⟨w, a, b⟩ = decodeFormatV w (.rdsufW a) (.rdsufN a) := by
  simp only [decode, h]

theorem decode_opcode_10 (h : bitField w 31 24 = 0x10) :
    decode ⟨w, a, b⟩ = decodeFormatZ w (.wsym a b) := by
  simp only [decode, h]

theorem decode_opcode_11 (h : bitField w 31 24 = 0x11) :
    decode ⟨w, a, b⟩ = decodeFormatZ w (.rsym a) := by
  simp only [decode, h]

theorem decode_opcode_20 (h : bitField w 31 24 = 0x20) :
    decode ⟨w, a, b⟩ = decodeFormatC w fun r => .ok (.csrr r) := by
  simp only [decode, h]

theorem decode_opcode_21 (h : bitField w 31 24 = 0x21) :
    decode ⟨w, a, b⟩ = decodeFormatC w (decodeCsrw a) := by
  simp only [decode, h]

end Sys2Proof.Laws
end

