-- ==== Sys2Proof/Laws/Effect.lean ====
section
/-! SUPPORT. Everything an executed command can do, said once: proofs about all commands split this and
not the twenty meanings. -/

namespace Sys2Proof.Laws

open Sys2Proof Sys2Proof.Machine

/-- The next states a command can reach: a response alone, or one of the six writes with its
response. -/
inductive Effect (i : Instr) (s : State) : State → Prop
  | answerOnly (st : Status) (v : Lane) : (st ≠ .ok → v = 0) →
      (i.wellFormed = true → st ∈ i.statuses) → Effect i s (respond st v s)
  | initWide : i = .initW →
      Effect i s (respond .ok ((initWide s).baseW.setWidth 64) (Machine.initWide s))
  | initNarrow : i = .initN →
      Effect i s (respond .ok (Config.baseN.setWidth 64) (Machine.initNarrow s))
  | buildWide (n : Lane) : i = .buildW n → n.toNat < s.maxLen.toNat →
      Effect i s (respond .ok 0 (Machine.buildWide n.toNat s))
  | buildNarrow (n : Lane) : i = .buildN n → n.toNat < s.maxLen.toNat →
      Effect i s (respond .ok 0 (Machine.buildNarrow n.toNat s))
  | writeSym (k v : Lane) : i = .wsym k v → k.toNat < s.maxLen.toNat →
      Effect i s (respond .ok 0 (Machine.writeSym k.toNat (v.setWidth 32) s))
  | writeSeed (v : Lane) : i = .csrw .seed v →
      Effect i s (respond .ok 0 (Machine.writeSeed v s))

theorem effect_raise {i : Instr} {st : Status} {s t : State} (hst : st ∈ i.statuses)
    (h : raiseStatus st s = .next t) : Effect i s t := by
  cases h
  exact .answerOnly st 0 (fun _ => rfl) fun _ => hst

theorem effect_answer {i : Instr} {v : Lane} {s t : State} (hst : .ok ∈ i.statuses)
    (h : answer v s = .next t) : Effect i s t := by
  cases h
  exact .answerOnly .ok v (fun hne => absurd rfl hne) fun _ => hst

theorem effect_answerEntry {i : Instr} {w : Nat} {a : ArrayName} {k : Nat} {e : Option (BitVec w)}
    {s t : State} (hst : .ok ∈ i.statuses) (h : answerEntry a k e s = .next t) : Effect i s t := by
  obtain ⟨v, -, h⟩ := withEntry_next.1 h
  exact effect_answer hst h

/-- A query reads three entries and answers. -/
theorem effect_query {i : Instr} {w : Nat} {a b c : ArrayName} {j k l : Nat}
    {e f g : Option (BitVec w)} {q : BitVec w → BitVec w → BitVec w → Lane} {s t : State}
    (hst : .ok ∈ i.statuses)
    (h : (withEntry a j e fun x => withEntry b k f fun y => withEntry c l g fun z =>
      answer (q x y z) s) = .next t) : Effect i s t := by
  obtain ⟨x, -, h⟩ := withEntry_next.1 h
  obtain ⟨y, -, h⟩ := withEntry_next.1 h
  obtain ⟨z, -, h⟩ := withEntry_next.1 h
  exact effect_answer hst h

/-- Everything a command that answers can have done. -/
theorem effect_of_exec {i : Instr} {s t : State} (h : exec i s = .next t) : Effect i s t := by
  cases i with
  | mulW a b =>
    simp only [exec, execMulW] at h
    split at h
    · exact effect_answer (by simp [Instr.statuses]) h
    · exact effect_raise (by simp [Instr.statuses]) h
  | mulN a b =>
    simp only [exec, execMulN] at h
    split at h
    · exact effect_answer (by simp [Instr.statuses]) h
    · exact effect_raise (by simp [Instr.statuses]) h
  | initW =>
    cases h
    exact .initWide rfl
  | initN =>
    cases h
    exact .initNarrow rfl
  | buildW n =>
    simp only [exec, execBuildW] at h
    split at h
    · next hn =>
      cases h
      exact .buildWide n rfl hn
    · exact effect_raise (by simp [Instr.statuses]) h
  | buildN n =>
    simp only [exec, execBuildN] at h
    split at h
    · next hn =>
      cases h
      exact .buildNarrow n rfl hn
    · exact effect_raise (by simp [Instr.statuses]) h
  | gethW l r =>
    simp only [exec, execGethW] at h
    split at h
    · exact effect_query (by simp [Instr.statuses]) h
    · exact effect_raise (by simp [Instr.statuses]) h
  | gethN l r =>
    simp only [exec, execGethN] at h
    split at h
    · exact effect_query (by simp [Instr.statuses]) h
    · exact effect_raise (by simp [Instr.statuses]) h
  | revhW l r =>
    simp only [exec, execRevhW] at h
    split at h
    · exact effect_query (by simp [Instr.statuses]) h
    · exact effect_raise (by simp [Instr.statuses]) h
  | revhN l r =>
    simp only [exec, execRevhN] at h
    split at h
    · exact effect_query (by simp [Instr.statuses]) h
    · exact effect_raise (by simp [Instr.statuses]) h
  | rdpowW k =>
    simp only [exec, execRdpowW] at h
    split at h
    · exact effect_raise (by simp [Instr.statuses]) h
    · split at h
      · exact effect_answerEntry (by simp [Instr.statuses]) h
      · exact effect_raise (by simp [Instr.statuses]) h
  | rdpowN k =>
    simp only [exec, execRdpowN] at h
    split at h
    · exact effect_raise (by simp [Instr.statuses]) h
    · split at h
      · exact effect_answerEntry (by simp [Instr.statuses]) h
      · exact effect_raise (by simp [Instr.statuses]) h
  | rdpreW k =>
    simp only [exec, execRdpreW] at h
    split at h
    · exact effect_answerEntry (by simp [Instr.statuses]) h
    · exact effect_raise (by simp [Instr.statuses]) h
  | rdpreN k =>
    simp only [exec, execRdpreN] at h
    split at h
    · exact effect_answerEntry (by simp [Instr.statuses]) h
    · exact effect_raise (by simp [Instr.statuses]) h
  | rdsufW k =>
    simp only [exec, execRdsufW] at h
    split at h
    · exact effect_answerEntry (by simp [Instr.statuses]) h
    · exact effect_raise (by simp [Instr.statuses]) h
  | rdsufN k =>
    simp only [exec, execRdsufN] at h
    split at h
    · exact effect_answerEntry (by simp [Instr.statuses]) h
    · exact effect_raise (by simp [Instr.statuses]) h
  | wsym k v =>
    simp only [exec, execWsym] at h
    split at h
    · exact effect_raise (by simp [Instr.statuses]) h
    · split at h
      · next hk =>
        cases h
        exact .writeSym k v rfl hk
      · exact effect_raise (by simp [Instr.statuses]) h
  | rsym k =>
    simp only [exec, execRsym] at h
    split at h
    · exact effect_answer (by simp [Instr.statuses]) h
    · exact effect_raise (by simp [Instr.statuses]) h
  | csrr r => exact effect_answer (by simp [Instr.statuses]) h
  | csrw r v =>
    simp only [exec, execCsrw] at h
    split at h
    · next hr =>
      cases h
      obtain rfl := writable_iff.1 hr
      exact .writeSeed v rfl
    · next hr =>
      cases h
      exact .answerOnly .illegalCommand 0 (fun _ => rfl) fun hw => absurd hw hr

end Sys2Proof.Laws
end

