-- ==== Sys2Proof/Laws/PerInstr.lean ====
section
/-! SUPPORT. Statements made per instruction. `EncodesLegal`: the word the encoder gives a well-formed
instruction is one of the 27 legal words of 30_encoding.md R100, and a lane the instruction does not
read is sent as 0 (30_encoding.md R109). -/

namespace Sys2Proof.Laws.EncodesLegal

open Sys2Proof

def Statement (i : Instr) : Prop :=
  (i.wellFormed = true → (encode i).word ∈ legalWords) ∧
  (i.lanesRead.1 = false → (encode i).op1 = 0) ∧ (i.lanesRead.2 = false → (encode i).op2 = 0)

theorem mulW (a b : Lane) : Statement (.mulW a b) := by simp [Statement, encode, legalWords, Instr.lanesRead]
theorem mulN (a b : Lane) : Statement (.mulN a b) := by simp [Statement, encode, legalWords, Instr.lanesRead]
theorem initW : Statement .initW := by simp [Statement, encode, legalWords, Instr.lanesRead]
theorem initN : Statement .initN := by simp [Statement, encode, legalWords, Instr.lanesRead]
theorem buildW (n : Lane) : Statement (.buildW n) := by simp [Statement, encode, legalWords, Instr.lanesRead]
theorem buildN (n : Lane) : Statement (.buildN n) := by simp [Statement, encode, legalWords, Instr.lanesRead]
theorem gethW (l r : Lane) : Statement (.gethW l r) := by simp [Statement, encode, legalWords, Instr.lanesRead]
theorem gethN (l r : Lane) : Statement (.gethN l r) := by simp [Statement, encode, legalWords, Instr.lanesRead]
theorem revhW (l r : Lane) : Statement (.revhW l r) := by simp [Statement, encode, legalWords, Instr.lanesRead]
theorem revhN (l r : Lane) : Statement (.revhN l r) := by simp [Statement, encode, legalWords, Instr.lanesRead]
theorem rdpowW (i : Lane) : Statement (.rdpowW i) := by simp [Statement, encode, legalWords, Instr.lanesRead]
theorem rdpowN (i : Lane) : Statement (.rdpowN i) := by simp [Statement, encode, legalWords, Instr.lanesRead]
theorem rdpreW (i : Lane) : Statement (.rdpreW i) := by simp [Statement, encode, legalWords, Instr.lanesRead]
theorem rdpreN (i : Lane) : Statement (.rdpreN i) := by simp [Statement, encode, legalWords, Instr.lanesRead]
theorem rdsufW (i : Lane) : Statement (.rdsufW i) := by simp [Statement, encode, legalWords, Instr.lanesRead]
theorem rdsufN (i : Lane) : Statement (.rdsufN i) := by simp [Statement, encode, legalWords, Instr.lanesRead]
theorem wsym (k s : Lane) : Statement (.wsym k s) := by simp [Statement, encode, legalWords, Instr.lanesRead]
theorem rsym (k : Lane) : Statement (.rsym k) := by simp [Statement, encode, legalWords, Instr.lanesRead]

theorem csrr (r : Csr) : Statement (.csrr r) := by
  cases r <;> simp [Statement, encode, legalWords, Instr.lanesRead, csrNumber]

theorem csrw (r : Csr) (v : Lane) : Statement (.csrw r v) := by
  cases r <;> simp [Statement, encode, legalWords, Instr.lanesRead, Instr.wellFormed, Csr.writable, csrNumber]

end Sys2Proof.Laws.EncodesLegal
end

