-- ==== Sys2Proof/Tests/Slice0.lean ====
section
/-! SUPPORT. The model's own tests, their expected values taken from spec/95_test_vectors.md, and one
witness for every statement that has hypotheses: a state and operands that meet all of them. -/

namespace Sys2Proof.Tests

open Sys2Proof Sys2Proof.Machine

/-! ### Well-formedness -/

/-- 44_host_access.md R200: `CSRW` of a read-only register is no legal command. -/
theorem test_wf_refuses_read_only_csrw :
    (Instr.csrw .id 0).wellFormed = false ∧ (Instr.csrw .status 1).wellFormed = false ∧
    (Instr.csrw .baseW 5).wellFormed = false ∧ (Instr.csrw .baseN 0).wellFormed = false ∧
    (Instr.csrw .lenW 0).wellFormed = false ∧ (Instr.csrw .lenN 0).wellFormed = false ∧
    (Instr.csrw .maxLen 0).wellFormed = false ∧ (Instr.csrw .seed 0).wellFormed = true := by decide

/-! ### Decoding: each word written out from 30_encoding.md R91 to R94, opcode byte first -/

theorem test_decode_modmul :
    decode ⟨0b00000001000000000000000000000000, 5, 7⟩ = .ok (.mulW 5 7) ∧
    decode ⟨0b00000001100000000000000000000000, 5, 7⟩ = .ok (.mulN 5 7) ∧
    decode ⟨0b00000010000000000000000000000000, 5, 7⟩ = .ok .initW ∧
    decode ⟨0b00000010100000000000000000000000, 5, 7⟩ = .ok .initN ∧
    decode ⟨0b00000110000000000000000000000000, 5, 7⟩ = .ok (.rdpowW 5) ∧
    decode ⟨0b00000110100000000000000000000000, 5, 7⟩ = .ok (.rdpowN 5) := by decide

theorem test_decode_rollhash :
    decode ⟨0b00000011000000000000000000000000, 5, 7⟩ = .ok (.buildW 5) ∧
    decode ⟨0b00000011100000000000000000000000, 5, 7⟩ = .ok (.buildN 5) ∧
    decode ⟨0b00000100000000000000000000000000, 5, 7⟩ = .ok (.gethW 5 7) ∧
    decode ⟨0b00000100100000000000000000000000, 5, 7⟩ = .ok (.gethN 5 7) ∧
    decode ⟨0b00000101000000000000000000000000, 5, 7⟩ = .ok (.revhW 5 7) ∧
    decode ⟨0b00000101100000000000000000000000, 5, 7⟩ = .ok (.revhN 5 7) := by decide

theorem test_decode_read_back :
    decode ⟨0b00000111000000000000000000000000, 5, 7⟩ = .ok (.rdpreW 5) ∧
    decode ⟨0b00000111100000000000000000000000, 5, 7⟩ = .ok (.rdpreN 5) ∧
    decode ⟨0b00001000000000000000000000000000, 5, 7⟩ = .ok (.rdsufW 5) ∧
    decode ⟨0b00001000100000000000000000000000, 5, 7⟩ = .ok (.rdsufN 5) := by decide

theorem test_decode_host_access :
    decode ⟨0b00010000000000000000000000000000, 5, 7⟩ = .ok (.wsym 5 7) ∧
    decode ⟨0b00010001000000000000000000000000, 5, 7⟩ = .ok (.rsym 5) ∧
    decode ⟨0b00100000000000000000000000000110, 5, 7⟩ = .ok (.csrr .lenN) ∧
    decode ⟨0b00100001000000000000000000000010, 5, 7⟩ = .ok (.csrw .seed 5) := by decide

/-- 95_test_vectors.md section 2.6: the illegal words of the table, with the reason it gives. -/
theorem test_decode_refusals :
    decode ⟨0x00000000, 0, 0⟩ = .error .unassignedOpcode ∧
    decode ⟨0x01000001, 0, 0⟩ = .error .reservedBits ∧
    decode ⟨0x01400000, 0, 0⟩ = .error .reservedBits ∧
    decode ⟨0x10800000, 0, 0⟩ = .error .reservedBits ∧
    decode ⟨0x11000001, 0, 0⟩ = .error .reservedBits ∧
    decode ⟨0x20000008, 0, 0⟩ = .error .unassignedCsr ∧
    decode ⟨0x20000100, 0, 0⟩ = .error .reservedBits ∧
    decode ⟨0x21000000, 0, 0⟩ = .error .readOnlyCsr ∧
    decode ⟨0x21000003, 0, 0⟩ = .error .readOnlyCsr ∧
    decode ⟨0x21800002, 0, 0⟩ = .error .reservedBits ∧
    decode ⟨0x09000000, 0, 0⟩ = .error .unassignedOpcode ∧
    decode ⟨0x0F800000, 0, 0⟩ = .error .unassignedOpcode ∧
    decode ⟨0x12000000, 0, 0⟩ = .error .unassignedOpcode ∧
    decode ⟨0x22000000, 0, 0⟩ = .error .unassignedOpcode ∧
    decode ⟨0xFFFFFFFF, 0, 0⟩ = .error .unassignedOpcode := by decide

theorem test_decode_table_word :
    decodeTableWord 32 0x03800000 = some (.buildN 0) ∧ decodeTableWord 32 0x21000000 = none := by decide

/-! ### Small states -/

/-- The reset state with the seed 0 (95_test_vectors.md section 2.2). -/
def fresh : State := State.resetWith 0 1000000 0

/-- The reset state of the block with `MAXLEN = 8` (95_test_vectors.md sections 2.5, 2.7). -/
def short : State := State.resetWith 0 8 0

/-- The symbols of "racecar" (95_test_vectors.md section 3.1). -/
def racecar (k : Nat) : Nat := [114, 97, 99, 101, 99, 97, 114].getD k 0

/-- The end state of 95_test_vectors.md section 3.1, with the all-zero sequence of length 3 in the narrow
slice, whose arrays are 0 for every `BASE_N` (section 2.4). -/
def demo : State :=
  { fresh with
    seed := 0x0123456789ABCDEF, initW := true, initN := true, baseW := 0x0BCDF01234567899,
    powW := .built 0x0BCDF01234567899, powN := .built Config.baseN,
    sym := [(0, 114), (1, 97), (2, 99), (3, 101), (4, 99), (5, 97), (6, 114)], nW := 7,
    preW := [0, 0x457, 0x1ABCDF01234565DE, 0x19FA0B08AEB8E978, 0x1E92F695ADD684F9, 0x166E932573E253F0,
      0x0B3FACE6E67CD47F, 0x0D54A3D0704AE601],
    sufW := [0x0D54A3D0704AE601, 0x0B3FACE6E67CD47F, 0x166E932573E253F0, 0x1E92F695ADD684F9,
      0x19FA0B08AEB8E978, 0x1ABCDF01234565DE, 0x457, 0],
    nN := 3, preN := [0, 0, 0, 0], sufN := [0, 0, 0, 0] }

/-- The narrow instance of 95_test_vectors.md section 3.2, with the power table of `BASE_N = 131`. -/
def demoNarrow : State :=
  { fresh with
    initN := true, powN := .built 131, nN := 5, preN := [0, 1, 133, 17426, 2282808, 299047849],
    sufN := [299047849, 2282808, 17426, 133, 1, 0] }

/-- The response of a step, if it answered. -/
def answerOf : Result → Option Response
  | .next t => t.responses.head?
  | _ => none

/-- What holds of the next state, if there is one. -/
def nextIs (p : State → Bool) : Result → Bool
  | .next t => p t
  | _ => false

/-- `s` with one event pending. -/
def pending (e : HostEvent) (s : State) : State := { s with inputs := [e] }

/-! ### The commands, on vectors of 95_test_vectors.md -/

/-- Section 2.1, rows 1, 8, 13. -/
theorem test_mulW :
    answerOf (exec (.mulW 0x0123456789ABCDEF 0x0FEDCBA987654321) fresh) = some ⟨.ok, 0x02B46A8955120470⟩ ∧
    answerOf (exec (.mulW 0x1FFFFFFFFFFFFFFE 0x1FFFFFFFFFFFFFFE) fresh) = some ⟨.ok, 1⟩ ∧
    answerOf (exec (.mulW 0x1000000000000000 0x1000000000000000) fresh) =
      some ⟨.ok, 0x0800000000000000⟩ := by decide

/-- Section 2.1, rows 17 to 19. -/
theorem test_mulW_refuses :
    answerOf (exec (.mulW 0x1FFFFFFFFFFFFFFF 1) fresh) = some ⟨.operandRange, 0⟩ ∧
    answerOf (exec (.mulW 1 0x1FFFFFFFFFFFFFFF) fresh) = some ⟨.operandRange, 0⟩ ∧
    answerOf (exec (.mulW 0xFFFFFFFFFFFFFFFF 0) fresh) = some ⟨.operandRange, 0⟩ := by decide

/-- Section 2.1, the datapath trace of row 1. -/
theorem test_datapath_row_1 :
    partialProducts 0x0123456789ABCDEF 0x0FEDCBA987654321 =
      (0x48D00E7AFE5618CF, 0x092AFF74D9535F0E, 0x00121FA001AC7DFF) ∧
    biasedSum 0x0123456789ABCDEF 0x0FEDCBA987654321 = 0x22B46A8955120470 ∧
    foldPass 0x22B46A8955120470 = 0x02B46A8955120471 ∧
    mulWideDatapath 0x0123456789ABCDEF 0x0FEDCBA987654321 = 0x02B46A8955120470 := by decide

/-- Section 2.1, the datapath traces of rows 8 and 9: the largest sum, and the modulus surviving both
passes. -/
theorem test_datapath_rows_8_9 :
    biasedSum 0x1FFFFFFFFFFFFFFE 0x1FFFFFFFFFFFFFFE = 0x4000000000000000 ∧
    mulWideDatapath 0x1FFFFFFFFFFFFFFE 0x1FFFFFFFFFFFFFFE = 1 ∧
    biasedSum 1 0x1FFFFFFFFFFFFFFE = 0x1FFFFFFFFFFFFFFF ∧
    mulWideDatapath 1 0x1FFFFFFFFFFFFFFE = 0x1FFFFFFFFFFFFFFE := by decide

/-- Section 2.1, rows 20, 24, 30. -/
theorem test_mulN :
    answerOf (exec (.mulN 123456789 987654321) fresh) = some ⟨.ok, 263684735⟩ ∧
    answerOf (exec (.mulN 998244352 998244352) fresh) = some ⟨.ok, 1⟩ ∧
    answerOf (exec (.mulN 998244353 0) fresh) = some ⟨.operandRange, 0⟩ := by decide

/-- Section 2.2, seeds to bases. -/
theorem test_initW :
    answerOf (exec .initW { fresh with seed := 0x0AAAAAAAAAAAAAA9 }) = some ⟨.ok, 0x1555555555555553⟩ ∧
    answerOf (exec .initW { fresh with seed := 0x0AAAAAAAAAAAAAAA }) = some ⟨.ok, 0x0AAAAAAAAAAAAAAA⟩ ∧
    answerOf (exec .initW { fresh with seed := 0xDEADBEEFCAFEF00D }) = some ⟨.ok, 0x140314452054456F⟩ ∧
    answerOf (exec .initW { fresh with seed := 0xFFFFFFFFFFFFFFFF }) =
      some ⟨.ok, 0x0AAAAAAAAAAAAAB9⟩ := by decide

/-- Section 2.2: a second initialisation, after the seed has changed, answers the old base. -/
theorem test_initW_twice :
    answerOf (exec .initW { demo with seed := 5 }) = some ⟨.ok, 0x0BCDF01234567899⟩ := by decide

/-- Section 2.2: `INIT.N` sets its flag and leaves the wide slice's. -/
theorem test_initN : statusRegister (initNarrow fresh) = 2 ∧ statusRegister (initNarrow demo) = 3 := by
  decide

/-- Section 2.2, the row of `base_w = 0x0BCDF01234567899`, and the failure after it. -/
theorem test_rdpowW :
    answerOf (exec (.rdpowW 0) demo) = some ⟨.ok, 1⟩ ∧
    answerOf (exec (.rdpowW 7) demo) = some ⟨.ok, 0x0C949535D1CF87AF⟩ ∧
    answerOf (exec (.rdpowW 1000000) demo) = some ⟨.indexOutOfRange, 0⟩ ∧
    answerOf (exec (.rdpowW 0) fresh) = some ⟨.notInitialised, 0⟩ := by decide

/-- Section 2.2: the last entry of the wide table; section 3.3, steps 36 and 37, with `MAXLEN = 8`. -/
theorem test_rdpowW_last :
    answerOf (exec (.rdpowW 999999) demo) = some ⟨.ok, 0x172413F2EA90B78E⟩ ∧
    answerOf (exec (.rdpowW 7) (initWide { short with seed := 1 })) = some ⟨.ok, 0x055EB2A05DA4EE53⟩ ∧
    answerOf (exec (.rdpowW 8) (initWide { short with seed := 1 })) = some ⟨.indexOutOfRange, 0⟩ := by
  decide +kernel

/-- Section 2.2, the row of `BASE_N = 131`. -/
theorem test_rdpowN :
    answerOf (exec (.rdpowN 4) demoNarrow) = some ⟨.ok, 294499921⟩ ∧
    answerOf (exec (.rdpowN 7) demoNarrow) = some ⟨.ok, 0x00DBA150⟩ ∧
    answerOf (exec (.rdpowN 1000000) demoNarrow) = some ⟨.indexOutOfRange, 0⟩ ∧
    answerOf (exec (.rdpowN 1000000) fresh) = some ⟨.notInitialised, 0⟩ := by decide

/-- Section 3.1: the arrays that `BUILD.W 7` builds from "racecar". -/
theorem test_buildW :
    (buildWide 7 { fresh with seed := demo.seed, sym := demo.sym }).preW = demo.preW ∧
    (buildWide 7 { fresh with seed := demo.seed, sym := demo.sym }).sufW = demo.sufW := by decide

/-- Section 3.3, steps 5, 21, 34, with `MAXLEN = 8`: the length `MAXLEN` fails and leaves the slice
uninitialised, the length `MAXLEN - 1` gives the arrays of section 2.3. -/
theorem test_build_capacity :
    exec (.buildW 8) short = .next (respond .capacityExceeded 0 short) ∧
    exec (.buildN 0xFFFFFFFFFFFFFFFF) short = .next (respond .capacityExceeded 0 short) ∧
    nextIs (fun t => t.nW = 7 ∧ t.preW.getLast? = some 0x09161F9B0FCD79A5 ∧
        t.sufW.head? = some 0x187E6B7561F9B8DA)
      (exec (.buildW 7) { short with
        seed := 1, sym := [(0, 5), (1, 0), (2, 0xFFFFFFFF), (3, 7), (4, 0), (5, 0), (6, 5)] }) = true := by
  refine ⟨rfl, rfl, ?_⟩
  decide

/-- Section 3.2: the arrays that `BUILD.N 5` builds from 1, 2, 3, 2, 1 with `BASE_N = 131`. -/
theorem test_buildN_arrays :
    prefixAccs (hashStepNarrow 131) [1, 2, 3, 2, 1] = [0, 1, 133, 17426, 2282808, 299047849] ∧
    suffixAccs (hashStepNarrow 131) [1, 2, 3, 2, 1] = [299047849, 2282808, 17426, 133, 1, 0] := by decide

/-- Section 2.4: symbols at and above the modulus, with `BASE_N = 131`. -/
theorem test_buildN_large_symbols :
    prefixAccs (hashStepNarrow 131) [0xFFFFFFFF, 998244353, 998244352] =
      [0, 0x11FFFFFB, 0x257FFD4A, 0x217E9C8B] := by decide

/-- Section 3.1, steps 17, 22, 30, 31. -/
theorem test_gethW :
    answerOf (exec (.gethW 2 4) demo) = some ⟨.ok, 0x1B943FFA7F8ADE91⟩ ∧
    answerOf (exec (.gethW 1 5) demo) = some ⟨.ok, 0x0311A411CA97A995⟩ ∧
    answerOf (exec (.gethW 0 7) demo) = some ⟨.indexOutOfRange, 0⟩ ∧
    answerOf (exec (.gethW 3 2) demo) = some ⟨.indexOutOfRange, 0⟩ := by decide

/-- Section 3.1, steps 18, 21, 23, and the query at the end. -/
theorem test_revhW :
    answerOf (exec (.revhW 2 4) demo) = some ⟨.ok, 0x1B943FFA7F8ADE91⟩ ∧
    answerOf (exec (.revhW 5 6) demo) = some ⟨.ok, 0x1ABCDF01234565DE⟩ ∧
    answerOf (exec (.revhW 0 4) demo) = some ⟨.ok, 0x17992A167D20A278⟩ ∧
    answerOf (exec (.revhW 7 7) demo) = some ⟨.indexOutOfRange, 0⟩ := by decide

/-- 43_rollhash_narrow.md R177, the example. -/
theorem test_gethN :
    answerOf (exec (.gethN 0 4) demoNarrow) = some ⟨.ok, 299047849⟩ ∧
    answerOf (exec (.gethN 0 1) demoNarrow) = some ⟨.ok, 133⟩ ∧
    answerOf (exec (.gethN 0 5) demoNarrow) = some ⟨.indexOutOfRange, 0⟩ := by decide

/-- 43_rollhash_narrow.md R178, the example. -/
theorem test_revhN :
    answerOf (exec (.revhN 0 4) demoNarrow) = some ⟨.ok, 299047849⟩ ∧
    answerOf (exec (.revhN 0 1) demoNarrow) = some ⟨.ok, 263⟩ ∧
    answerOf (exec (.revhN 0 0) fresh) = some ⟨.indexOutOfRange, 0⟩ := by decide

/-- Section 3.1, step 24, and section 2.5. -/
theorem test_rdpreW :
    answerOf (exec (.rdpreW 7) demo) = some ⟨.ok, 0x0D54A3D0704AE601⟩ ∧
    answerOf (exec (.rdpreW 8) demo) = some ⟨.indexOutOfRange, 0⟩ ∧
    answerOf (exec (.rdpreW 0) fresh) = some ⟨.ok, 0⟩ := by decide

/-- Section 3.1, steps 25, 26 and the queries at the end. -/
theorem test_rdsufW :
    answerOf (exec (.rdsufW 1) demo) = some ⟨.ok, 0x0D54A3D0704AE601⟩ ∧
    answerOf (exec (.rdsufW 8) demo) = some ⟨.ok, 0⟩ ∧
    answerOf (exec (.rdsufW 0) demo) = some ⟨.indexOutOfRange, 0⟩ ∧
    answerOf (exec (.rdsufW 9) demo) = some ⟨.indexOutOfRange, 0⟩ := by decide

/-- 43_rollhash_narrow.md R179, the example. -/
theorem test_rdpreN :
    answerOf (exec (.rdpreN 3) demoNarrow) = some ⟨.ok, 17426⟩ ∧
    answerOf (exec (.rdpreN 6) demoNarrow) = some ⟨.indexOutOfRange, 0⟩ := by decide

/-- 43_rollhash_narrow.md R180, the example. -/
theorem test_rdsufN :
    answerOf (exec (.rdsufN 0) demoNarrow) = some ⟨.ok, 299047849⟩ ∧
    answerOf (exec (.rdsufN 5) demoNarrow) = some ⟨.ok, 0⟩ ∧
    answerOf (exec (.rdsufN 6) demoNarrow) = some ⟨.indexOutOfRange, 0⟩ := by decide

/-- Sections 2.5 and 2.7, `MAXLEN = 8`: the last index is legal, a symbol is not truncated, and
`OPERAND_RANGE` comes first. -/
theorem test_wsym :
    nextIs (fun t => t.sym = [(7, 0xFFFFFFFF)]) (exec (.wsym 7 0xFFFFFFFF) short) = true ∧
    answerOf (exec (.wsym 0 0x100000000) short) = some ⟨.operandRange, 0⟩ ∧
    answerOf (exec (.wsym 8 9) short) = some ⟨.indexOutOfRange, 0⟩ ∧
    answerOf (exec (.wsym 8 0x100000000) short) = some ⟨.operandRange, 0⟩ := by decide

/-- Section 3.1, step 33, and section 2.5, `MAXLEN = 8`: no index is truncated. -/
theorem test_rsym :
    answerOf (exec (.rsym 3) demo) = some ⟨.ok, 0x65⟩ ∧
    answerOf (exec (.rsym 7) { short with sym := [(7, 9)] }) = some ⟨.ok, 9⟩ ∧
    answerOf (exec (.rsym 8) short) = some ⟨.indexOutOfRange, 0⟩ ∧
    answerOf (exec (.rsym 0x100000007) short) = some ⟨.indexOutOfRange, 0⟩ := by decide

/-- Section 3.1, steps 11 to 14, and section 2.5. -/
theorem test_csrr :
    answerOf (exec (.csrr .id) fresh) = some ⟨.ok, 0x4D36314800070001⟩ ∧
    answerOf (exec (.csrr .status) fresh) = some ⟨.ok, 0⟩ ∧
    answerOf (exec (.csrr .baseW) demo) = some ⟨.ok, 0x0BCDF01234567899⟩ ∧
    answerOf (exec (.csrr .lenW) demo) = some ⟨.ok, 7⟩ ∧
    answerOf (exec (.csrr .maxLen) State.reset) = some ⟨.ok, 1000000⟩ ∧
    answerOf (exec (.csrr .maxLen) short) = some ⟨.ok, 8⟩ := by decide

/-- Section 2.5: all 64 bits of the seed are written. -/
theorem test_csrw :
    exec (.csrw .seed 0xFFFFFFFFFFFFFFFF) fresh =
      .next (respond .ok 0 { fresh with seed := 0xFFFFFFFFFFFFFFFF }) := rfl

/-! ### The step -/

/-- Section 2.7: an illegal word answers `ILLEGAL_COMMAND` whatever the lanes hold. -/
theorem test_step_illegal :
    answerOf (step (pending (.command ⟨0x01000001, 0x1FFFFFFFFFFFFFFF, 0⟩) fresh)) =
      some ⟨.illegalCommand, 0⟩ := by decide

/-- A word of the opcode table is run as the first command after reset. -/
theorem test_step_fetched_word :
    answerOf (step (State.reset.withFetchWord 32 0x04000000)) = some ⟨.indexOutOfRange, 0⟩ ∧
    answerOf (step (State.reset.withFetchWord 32 0x01800000)) = some ⟨.ok, 0⟩ := by decide

/-- Section 2.8: a reset during a command empties both instances and answers nothing. -/
theorem test_step_reset :
    nextIs (fun t => t.seed = 9 ∧ t.initW = false ∧ t.nW = 0 ∧ t.sufW = [0] ∧ t.responses = [])
      (step (pending (.resetDuring ⟨0x02000000, 0, 0⟩ 9) demo)) = true := by decide

/-- 95_test_vectors.md section 3.1, steps 3 to 10: the expansion of `BUILDSTR.W "cec"` in its manner. -/
theorem test_buildStr :
    buildStrW ['c', 'e', 'c'] = [.wsym 0 99, .wsym 1 101, .wsym 2 99, .buildW 3] := by decide

/-! ### Witnesses: the small state has the instance of "racecar" and meets the invariant -/

theorem demo_wide : WideInstance demo racecar where
  length_lt := by decide
  pre_length := by decide
  suf_length := by decide
  pre_first := by decide
  pre_next := by decide
  suf_last := by decide
  suf_next := by decide

theorem demo_narrow : NarrowInstance demo (fun _ => 0) where
  length_lt := by decide
  pre_length := by decide
  suf_length := by decide
  pre_first := by decide
  pre_next := by
    have h : ∀ i < 3, entryNum (preNAt demo i) = 0 ∧ entryNum (preNAt demo (i + 1)) = 0 := by decide
    intro i hi
    obtain ⟨h0, h1⟩ := h i hi
    simp [h0, h1]
  suf_last := by decide
  suf_next := by
    have h : ∀ i < 3, entryNum (sufNAt demo i) = 0 ∧ entryNum (sufNAt demo (i + 1)) = 0 := by decide
    intro i hi
    obtain ⟨h0, h1⟩ := h i hi
    simp [h0, h1]

theorem demo_inv : MachineInv demo where
  wide :=
    { length_lt := by decide
      pre_length := by decide
      suf_length := by decide
      pre_first := by decide
      suf_last := by decide
      pre_reduced := by simp [demo, Config.mW]
      suf_reduced := by simp [demo, Config.mW]
      built_init := by decide
      before_init := by decide
      after_init := by decide }
  narrow :=
    { length_lt := by decide
      pre_length := by decide
      suf_length := by decide
      pre_first := by decide
      suf_last := by decide
      pre_reduced := by simp [demo, Config.mN]
      suf_reduced := by simp [demo, Config.mN]
      built_init := by decide
      before_init := fun h => absurd h (by decide)
      after_init := fun _ => rfl }
  memory := by decide
  memory_below := by decide
  maxLen_pos := by decide

/-! ### Witnesses: the hypotheses of each statement, clause by clause, at the ends of their ranges -/

theorem witness_DecodeIsTotalOnAllWords :
    ∃ c rest s, c.word ∉ legalWords ∧ State.inputs s = HostEvent.command c :: rest :=
  ⟨⟨0x21000003, 5, 0⟩, [], pending (.command ⟨0x21000003, 5, 0⟩) demo, by decide, rfl⟩

theorem witness_DecodeOfEncode : (Instr.csrw .seed 6).wellFormed = true := by decide

theorem witness_EncodeOfDecode :
    decode ⟨0x06000000, 3, 9⟩ = .ok (.rdpowW 3) ∧ (Instr.rdpowW 3).lanesRead.1 = true ∧
    decode ⟨0x05800000, 1, 3⟩ = .ok (.revhN 1 3) ∧ (Instr.revhN 1 3).lanesRead.2 = true := by decide

theorem witness_UnreadLanesAreIgnored :
    decode ⟨0x02000000, 3, 9⟩ = .ok .initW ∧ Instr.initW.lanesRead.1 = false ∧
    decode ⟨0x06000000, 3, 9⟩ = .ok (.rdpowW 3) ∧ (Instr.rdpowW 3).lanesRead.2 = false := by decide

theorem witness_StepRunsTheDecodedInstruction :
    (pending (.command ⟨0x04000000, 2, 4⟩) demo).inputs = [.command ⟨0x04000000, 2, 4⟩] ∧
    decode ⟨0x04000000, 2, 4⟩ = .ok (.gethW 2 4) := by decide

theorem witness_StepWithNothingPendingHoldsTheState : demo.inputs = [] := by decide

theorem witness_ResetGivesTheResetState : (pending (.reset 9) demo).inputs = [.reset 9] := by decide

theorem witness_ResetDuringACommandAbandonsIt :
    (pending (.resetDuring ⟨0x02000000, 0, 0⟩ 9) demo).inputs = [.resetDuring ⟨0x02000000, 0, 0⟩ 9] := by
  decide

/-- Both operand clauses, at the largest field element and at the modulus. -/
theorem witness_MulWideAnswers :
    (0x1FFFFFFFFFFFFFFE : Lane).toNat < 2 ^ 61 - 1 ∧ 2 ^ 61 - 1 ≤ (0x1FFFFFFFFFFFFFFF : Lane).toNat := by
  decide

theorem witness_DatapathComputesTheWideProduct :
    (0x1FFFFFFFFFFFFFFE : Lane).toNat < 2 ^ 61 - 1 ∧ (0 : Lane).toNat < 2 ^ 61 - 1 := by decide

theorem witness_DatapathNeverWraps :
    (0x1FFFFFFFFFFFFFFE : Lane).toNat < 2 ^ 61 - 1 ∧ (0x1FFFFFFFFFFFFFFE : Lane).toNat < 2 ^ 61 - 1 := by
  decide

theorem witness_SecondPassChangesNothing :
    (0x1FFFFFFFFFFFFFFE : Lane).toNat < 2 ^ 61 - 1 ∧ (1 : Lane).toNat < 2 ^ 61 - 1 := by decide

theorem witness_MulWideLaws : (0x1FFFFFFFFFFFFFFE : Lane).toNat < 2 ^ 61 - 1 := by decide

theorem witness_MulNarrowLaws : (998244352 : Lane).toNat < 998244353 := by decide

theorem witness_MulNarrowAnswers :
    (998244352 : Lane).toNat < 998244353 ∧ 998244353 ≤ (998244353 : Lane).toNat := by decide

theorem witness_InitWideInitialisesOnce :
    demo.initW = true ∧ fresh.initW = false ∧ 1 ≤ fresh.maxLen.toNat ∧
    1 ≤ 1 ∧ 1 ≤ 999999 ∧ 999999 < fresh.maxLen.toNat := by decide

theorem witness_InitNarrowInitialisesOnce :
    demo.initN = true ∧ fresh.initN = false ∧ 1 ≤ fresh.maxLen.toNat ∧
    1 ≤ 1 ∧ 1 ≤ 999999 ∧ 999999 < fresh.maxLen.toNat := by decide

theorem witness_ReadPowerWideAnswers :
    fresh.initW = false ∧ demo.initW = true ∧ demo.maxLen.toNat ≤ (1000000 : Lane).toNat ∧
    (999999 : Lane).toNat < demo.maxLen.toNat ∧ (0 : Lane).toNat < demo.maxLen.toNat ∧
    demo.powW = .built demo.baseW := by
  decide

theorem witness_ReadPowerNarrowAnswers :
    fresh.initN = false ∧ demo.initN = true ∧ demo.maxLen.toNat ≤ (1000000 : Lane).toNat ∧
    (999999 : Lane).toNat < demo.maxLen.toNat ∧ (0 : Lane).toNat < demo.maxLen.toNat ∧
    demo.powN = .built Config.baseN := by
  refine ⟨?_, ?_, ?_, ?_, ?_, rfl⟩ <;> decide

theorem witness_SeedsGiveTheSameBaseIffCongruent :
    fresh.initW = false ∧ (State.resetWith 1 1000000 0).initW = false ∧
    (∃ t, exec .initW fresh = .next t) ∧ ∃ t, exec .initW (State.resetWith 1 1000000 0) = .next t :=
  ⟨rfl, rfl, ⟨_, rfl⟩, ⟨_, rfl⟩⟩

/-- The two lengths where the clauses meet; a `WSYM` that follows answers. -/
theorem witness_BuildWideConstructs :
    demo.maxLen.toNat ≤ (1000000 : Lane).toNat ∧ (999999 : Lane).toNat < demo.maxLen.toNat ∧
    ∃ u, exec (.wsym 0 5) demo = .next u := ⟨by decide, by decide, _, rfl⟩

theorem witness_BuildNarrowConstructs :
    demo.maxLen.toNat ≤ (1000000 : Lane).toNat ∧ (999999 : Lane).toNat < demo.maxLen.toNat := by decide

theorem witness_EagerAndLazyInitialisationAgree :
    (999999 : Lane).toNat < fresh.maxLen.toNat ∧ (∃ u, exec .initW fresh = .next u) ∧
    ∃ u, exec .initN fresh = .next u := ⟨by decide, ⟨_, rfl⟩, ⟨_, rfl⟩⟩

theorem witness_BuildSequenceConstructs :
    [(0xFFFFFFFF : Lane), 0].length < short.maxLen.toNat ∧ ∀ x ∈ [(0xFFFFFFFF : Lane), 0], x.toNat < 2 ^ 32 := by
  simp [short, State.resetWith]

/-- The refused ranges, the longest range, the ranges from 0 and of one symbol. -/
theorem witness_ForwardHashWideAnswers :
    ¬ ((0 : Lane).toNat ≤ (7 : Lane).toNat ∧ (7 : Lane).toNat < demo.nW.toNat) ∧
    ¬ ((3 : Lane).toNat ≤ (2 : Lane).toNat ∧ (2 : Lane).toNat < demo.nW.toNat) ∧
    ((1 : Lane).toNat ≤ (6 : Lane).toNat ∧ (6 : Lane).toNat < demo.nW.toNat ∧
      ∃ p g q, preWAt demo 7 = some p ∧ powWAt demo 6 = some g ∧ preWAt demo 1 = some q ∧
        p.toNat < 2 ^ 61 - 1) ∧
    (MachineInv demo ∧ (6 : Lane).toNat < demo.nW.toNat) ∧
    (WideInstance demo racecar ∧ demo.powW = .built demo.baseW ∧ (6 : Lane).toNat < demo.nW.toNat ∧
      racecar 6 < 2 ^ 32) :=
  ⟨by decide, by decide, ⟨by decide, by decide, _, _, _, rfl, rfl, rfl, by decide⟩,
    ⟨demo_inv, by decide⟩, ⟨demo_wide, rfl, by decide, by decide⟩⟩

/-- The refused ranges, a range before the end, one up to the end, one symbol. -/
theorem witness_ReverseHashWideAnswers :
    ¬ ((0 : Lane).toNat ≤ (7 : Lane).toNat ∧ (7 : Lane).toNat < demo.nW.toNat) ∧
    ¬ ((3 : Lane).toNat ≤ (2 : Lane).toNat ∧ (2 : Lane).toNat < demo.nW.toNat) ∧
    ((0 : Lane).toNat ≤ (6 : Lane).toNat ∧ (6 : Lane).toNat < demo.nW.toNat ∧
      ∃ p g q, sufWAt demo 1 = some p ∧ powWAt demo 7 = some g ∧ sufWAt demo 8 = some q ∧
        p.toNat < 2 ^ 61 - 1) ∧
    (MachineInv demo ∧ (5 : Lane).toNat ≤ (6 : Lane).toNat ∧ (6 : Lane).toNat + 1 = demo.nW.toNat) ∧
    (WideInstance demo racecar ∧ demo.powW = .built demo.baseW ∧ (6 : Lane).toNat < demo.nW.toNat ∧
      racecar 6 < 2 ^ 32) :=
  ⟨by decide, by decide, ⟨by decide, by decide, _, _, _, rfl, rfl, rfl, by decide⟩,
    ⟨demo_inv, by decide, by decide⟩, ⟨demo_wide, rfl, by decide, by decide⟩⟩

theorem witness_ForwardHashNarrowAnswers :
    ¬ ((0 : Lane).toNat ≤ (5 : Lane).toNat ∧ (5 : Lane).toNat < demoNarrow.nN.toNat) ∧
    ¬ ((3 : Lane).toNat ≤ (2 : Lane).toNat ∧ (2 : Lane).toNat < demoNarrow.nN.toNat) ∧
    ((0 : Lane).toNat ≤ (4 : Lane).toNat ∧ (4 : Lane).toNat < demoNarrow.nN.toNat ∧
      ∃ p g q, preNAt demoNarrow 5 = some p ∧ powNAt demoNarrow 5 = some g ∧
        preNAt demoNarrow 0 = some q ∧ p.toNat < 998244353) ∧
    (NarrowInstance demo (fun _ => 0) ∧ demo.powN = .built Config.baseN ∧
      (2 : Lane).toNat < demo.nN.toNat) :=
  ⟨by decide, by decide, ⟨by decide, by decide, _, _, _, rfl, rfl, rfl, by decide⟩,
    ⟨demo_narrow, rfl, by decide⟩⟩

theorem witness_ReverseHashNarrowAnswers :
    ¬ ((0 : Lane).toNat ≤ (5 : Lane).toNat ∧ (5 : Lane).toNat < demoNarrow.nN.toNat) ∧
    ¬ ((3 : Lane).toNat ≤ (2 : Lane).toNat ∧ (2 : Lane).toNat < demoNarrow.nN.toNat) ∧
    ((0 : Lane).toNat ≤ (4 : Lane).toNat ∧ (4 : Lane).toNat < demoNarrow.nN.toNat ∧
      ∃ p g q, sufNAt demoNarrow 0 = some p ∧ powNAt demoNarrow 5 = some g ∧
        sufNAt demoNarrow 5 = some q ∧ p.toNat < 998244353) ∧
    (NarrowInstance demo (fun _ => 0) ∧ demo.powN = .built Config.baseN ∧
      (2 : Lane).toNat < demo.nN.toNat) :=
  ⟨by decide, by decide, ⟨by decide, by decide, _, _, _, rfl, rfl, rfl, by decide⟩,
    ⟨demo_narrow, rfl, by decide⟩⟩

theorem witness_ReadPrefixWideAnswers :
    demo.nW.toNat < (8 : Lane).toNat ∧ (7 : Lane).toNat ≤ demo.nW.toNat ∧
    preWAt demo 7 = some 0x0D54A3D0704AE601 ∧ MachineInv demo :=
  ⟨by decide, by decide, by decide, demo_inv⟩

theorem witness_ReadSuffixWideAnswers :
    (0 : Lane).toNat < 1 ∧ demo.nW.toNat + 1 < (9 : Lane).toNat ∧ 1 ≤ (1 : Lane).toNat ∧
    (1 : Lane).toNat ≤ demo.nW.toNat + 1 ∧ sufWAt demo 1 = some 0x0D54A3D0704AE601 ∧ MachineInv demo ∧
    (8 : Lane).toNat = demo.nW.toNat + 1 :=
  ⟨by decide, by decide, by decide, by decide, by decide, demo_inv, by decide⟩

theorem witness_ReadPrefixNarrowAnswers :
    demoNarrow.nN.toNat < (6 : Lane).toNat ∧ (5 : Lane).toNat ≤ demoNarrow.nN.toNat ∧
    preNAt demoNarrow 5 = some 299047849 ∧ MachineInv demo :=
  ⟨by decide, by decide, by decide, demo_inv⟩

theorem witness_ReadSuffixNarrowAnswers :
    demoNarrow.nN.toNat < (6 : Lane).toNat ∧ (0 : Lane).toNat ≤ demoNarrow.nN.toNat ∧
    sufNAt demoNarrow 0 = some 299047849 ∧ MachineInv demo ∧ (3 : Lane).toNat = demo.nN.toNat :=
  ⟨by decide, by decide, by decide, demo_inv, by decide⟩

theorem witness_WideQueriesHashTheRange :
    WideInstance demo racecar ∧ demo.powW = .built demo.baseW ∧ (0 : Lane).toNat ≤ (6 : Lane).toNat ∧
    (6 : Lane).toNat < demo.nW.toNat := ⟨demo_wide, rfl, by decide, by decide⟩

theorem witness_NarrowQueriesHashTheRange :
    NarrowInstance demo (fun _ => 0) ∧ demo.powN = .built Config.baseN ∧
    (0 : Lane).toNat ≤ (2 : Lane).toNat ∧ (2 : Lane).toNat < demo.nN.toNat :=
  ⟨demo_narrow, rfl, by decide, by decide⟩

/-- "rac" read forward is "car" read backward. -/
theorem witness_WideMirroredRangesHashAlike :
    WideInstance demo racecar ∧ demo.powW = .built demo.baseW ∧ (0 : Lane).toNat ≤ (2 : Lane).toNat ∧
    (2 : Lane).toNat < demo.nW.toNat ∧ (4 : Lane).toNat ≤ (6 : Lane).toNat ∧
    (6 : Lane).toNat < demo.nW.toNat ∧ (2 : Lane).toNat - (0 : Lane).toNat = (6 : Lane).toNat - (4 : Lane).toNat ∧
    ∀ j, j ≤ (2 : Lane).toNat - (0 : Lane).toNat →
      racecar ((0 : Lane).toNat + j) = racecar ((6 : Lane).toNat - j) := by
  refine ⟨demo_wide, rfl, ?_⟩
  decide

theorem witness_NarrowMirroredRangesHashAlike :
    NarrowInstance demo (fun _ => 0) ∧ demo.powN = .built Config.baseN ∧
    (0 : Lane).toNat ≤ (1 : Lane).toNat ∧ (1 : Lane).toNat < demo.nN.toNat ∧
    (1 : Lane).toNat ≤ (2 : Lane).toNat ∧ (2 : Lane).toNat < demo.nN.toNat ∧
    (1 : Lane).toNat - (0 : Lane).toNat = (2 : Lane).toNat - (1 : Lane).toNat ∧
    ∀ j, j ≤ (1 : Lane).toNat - (0 : Lane).toNat →
      (fun _ : Nat => 0) ((0 : Lane).toNat + j) = (fun _ : Nat => 0) ((2 : Lane).toNat - j) :=
  ⟨demo_narrow, rfl, by decide, by decide, by decide, by decide, by decide, fun _ _ => rfl⟩

theorem witness_LengthMismatchDoesNotCollide :
    MachineInv demo ∧ WideInstance demo racecar ∧ demo.nW.toNat = 7 ∧ racecar 1 = 97 ∧ racecar 5 = 97 ∧
    racecar 6 = 114 := ⟨demo_inv, demo_wide, by decide, by decide, by decide, by decide⟩

/-- Two zeros in front of the range, two behind it. -/
theorem witness_NarrowZerosAtTheEndsDoNotCount :
    NarrowInstance demo (fun _ => 0) ∧ demo.powN = .built Config.baseN ∧
    (0 : Lane).toNat ≤ (2 : Lane).toNat ∧ (2 : Lane).toNat ≤ (2 : Lane).toNat ∧
    (0 : Lane).toNat ≤ (0 : Lane).toNat ∧ (2 : Lane).toNat < demo.nN.toNat ∧
    (∀ k, (0 : Lane).toNat ≤ k → k < (2 : Lane).toNat → (fun _ : Nat => 0) k = 0) ∧
    ∀ k, (0 : Lane).toNat < k → k ≤ (2 : Lane).toNat → (fun _ : Nat => 0) k = 0 :=
  ⟨demo_narrow, rfl, by decide, by decide, by decide, by decide, fun _ _ _ => rfl, fun _ _ _ => rfl⟩

theorem witness_WriteSymbolWritesOneEntry :
    2 ^ 32 ≤ (0x100000000 : Lane).toNat ∧ (0xFFFFFFFF : Lane).toNat < 2 ^ 32 ∧
    demo.maxLen.toNat ≤ (1000000 : Lane).toNat ∧ (999999 : Lane).toNat < demo.maxLen.toNat ∧
    5 ≠ (999999 : Lane).toNat := by decide

theorem witness_ReadSymbolAnswers :
    demo.maxLen.toNat ≤ (1000000 : Lane).toNat ∧ (999999 : Lane).toNat < demo.maxLen.toNat := by decide

/-- The small state with the wide slice as after reset. -/
def narrowOnly : State :=
  { demo with initW := false, baseW := 0, powW := .unspecified, nW := 0, preW := [0], sufW := [0] }

/-- An invariant state before the wide initialisation, and the ends of the refused words. -/
theorem witness_ReadControlRegisterAnswers :
    (MachineInv narrowOnly ∧ narrowOnly.initW = false) ∧
    (0x20000008 ≤ (0x20000008 : Word).toNat ∧ (0x20000008 : Word).toNat ≤ 0x20FFFFFF) ∧
    (0x20000008 ≤ (0x20FFFFFF : Word).toNat ∧ (0x20FFFFFF : Word).toNat ≤ 0x20FFFFFF) := by
  have n := demo_inv.narrow
  refine ⟨⟨⟨?_, ⟨n.1, n.2, n.3, n.4, n.5, n.6, n.7, n.8, n.9, n.10⟩, demo_inv.memory,
    demo_inv.memory_below, demo_inv.maxLen_pos⟩, rfl⟩, ?_⟩
  · exact
      { length_lt := by decide
        pre_length := by decide
        suf_length := by decide
        pre_first := by decide
        suf_last := by decide
        pre_reduced := by simp [narrowOnly, Config.mW]
        suf_reduced := by simp [narrowOnly, Config.mW]
        built_init := by decide
        before_init := by decide
        after_init := by decide }
  · decide

theorem witness_WriteControlRegisterWritesTheSeed :
    (0x21000000 ≤ (0x21000000 : Word).toNat ∧ (0x21000000 : Word).toNat ≤ 0x21FFFFFF ∧
      (0x21000000 : Word).toNat ≠ 0x21000002) ∧
    (0x21000000 ≤ (0x21FFFFFF : Word).toNat ∧ (0x21FFFFFF : Word).toNat ≤ 0x21FFFFFF ∧
      (0x21FFFFFF : Word).toNat ≠ 0x21000002) ∧ Csr.id ≠ .seed := by decide

/-- A range that starts at the length. -/
theorem witness_FailureChangesNothing :
    ∃ s t c rest r, State.inputs s = HostEvent.command c :: rest ∧ step s = .next t ∧
      t.responses = r :: s.responses ∧ r.status ≠ .ok :=
  ⟨pending (.command ⟨0x04000000, 7, 7⟩) demo, _, ⟨0x04000000, 7, 7⟩, [], ⟨.indexOutOfRange, 0⟩, rfl, rfl, rfl,
    by decide⟩

theorem witness_CommandsAnswerOnlyTheirStatuses :
    ∃ t r, (Instr.gethW 7 7).wellFormed = true ∧ exec (.gethW 7 7) demo = .next t ∧
      t.responses = r :: demo.responses := ⟨_, ⟨.indexOutOfRange, 0⟩, rfl, rfl, rfl⟩

theorem witness_FailurePriority :
    fresh.maxLen.toNat ≤ (1000000 : Lane).toNat ∧ 2 ^ 32 ≤ (0x100000000 : Lane).toNat ∧ fresh.initW = false ∧
    fresh.initN = false ∧ 2 ^ 61 - 1 ≤ (0x1FFFFFFFFFFFFFFF : Lane).toNat ∧
    (pending (.command ⟨0x01000001, 0x1FFFFFFFFFFFFFFF, 0⟩) fresh).inputs =
      [.command ⟨0x01000001, 0x1FFFFFFFFFFFFFFF, 0⟩] := by decide

theorem witness_EveryCommandAnswersOnce : ∃ t, exec (.csrw .seed 5) demo = .next t := ⟨_, rfl⟩

theorem witness_BasesAndTablesAreImmutable :
    (∃ t, exec .initW demo = .next t) ∧ demo.initW = true ∧ demo.initN = true := ⟨⟨_, rfl⟩, rfl, rfl⟩

/-- The premises of the frame's clauses, each with a command that meets it, and two that answer. -/
theorem witness_WritingCommandsFrame :
    (∃ t, exec .initW demo = .next t) ∧ (∃ t, exec .initN demo = .next t) ∧
    Instr.initN.isWide = false ∧ Instr.initW.isNarrow = false ∧ (∀ r v, Instr.initW ≠ .csrw r v) ∧
    (∀ k v, Instr.initW ≠ .wsym k v) ∧ (∀ n, Instr.initW ≠ .buildW n) ∧ (∀ n, Instr.initW ≠ .buildN n) ∧
    (∀ n, Instr.initN ≠ .buildW n) ∧ Instr.initN ≠ .initW ∧ Instr.initW ≠ .initN := by
  refine ⟨⟨_, rfl⟩, ⟨_, rfl⟩, rfl, rfl, ?_, ?_, ?_, ?_, ?_, ?_, ?_⟩ <;> simp

theorem witness_ReadOnlyCommandsChangeNothing :
    (Instr.gethW 2 4).readOnly = true ∧ ∃ t, exec (.gethW 2 4) demo = .next t := ⟨rfl, _, rfl⟩

/-- Two states whose other slice differs, for each slice. -/
theorem witness_SlicesDoNotInterfere :
    (SameShared demo { demo with nN := 0 } ∧ SameWide demo { demo with nN := 0 } ∧
      (Instr.gethW 2 4).isWide = true ∧ ∃ t, exec (.gethW 2 4) demo = .next t) ∧
    (SameShared demo { demo with nW := 0 } ∧ SameNarrow demo { demo with nW := 0 } ∧
      (Instr.rdpreN 3).isNarrow = true ∧ ∃ t, exec (.rdpreN 3) demo = .next t) :=
  ⟨⟨⟨rfl, rfl, rfl, rfl⟩, ⟨rfl, rfl, rfl, rfl, rfl, rfl⟩, rfl, _, rfl⟩,
    ⟨⟨rfl, rfl, rfl, rfl⟩, ⟨rfl, rfl, rfl, rfl, rfl⟩, rfl, _, rfl⟩⟩

theorem witness_EveryStepAnswers :
    MachineInv (pending (.command ⟨0x21000000, 0, 0⟩) demo) ∧
    (pending (.command ⟨0x21000000, 0, 0⟩) demo).inputs = [.command ⟨0x21000000, 0, 0⟩] := by
  have w := demo_inv.wide
  have n := demo_inv.narrow
  exact ⟨⟨⟨w.1, w.2, w.3, w.4, w.5, w.6, w.7, w.8, w.9, w.10⟩,
    ⟨n.1, n.2, n.3, n.4, n.5, n.6, n.7, n.8, n.9, n.10⟩, demo_inv.memory, demo_inv.memory_below,
    demo_inv.maxLen_pos⟩, rfl⟩

theorem witness_EveryStepKeepsTheInvariant : MachineInv demo ∧ ∃ t, step demo = .next t :=
  ⟨demo_inv, _, rfl⟩

theorem witness_EveryStepKeepsTheInstances :
    MachineInv demo ∧ (∃ x, WideInstance demo x) ∧ (∃ x, NarrowInstance demo x) ∧ ∃ t, step demo = .next t :=
  ⟨demo_inv, ⟨_, demo_wide⟩, ⟨_, demo_narrow⟩, _, rfl⟩

theorem witness_MaxLenIsOneConstantForBothSlices :
    (∃ t, step (pending (.reset 9) short) = .next t) ∧ short.maxLen.toNat ≤ (8 : Lane).toNat ∧
    7 < short.maxLen.toNat := ⟨⟨_, rfl⟩, by decide, by decide⟩

end Sys2Proof.Tests
end

section
/-! SUPPORT. What the operations leave unchanged and when two states read alike: the rules that the
proofs about all commands cite. -/

namespace Sys2Proof

open Sys2Proof.Machine Sys2Proof.Laws

variable {s t : State} {i : Instr}

/-! ### What `buildWide` and `buildNarrow` leave unchanged -/

@[simp] theorem buildWide_seed (n : Nat) (s : State) : (buildWide n s).seed = s.seed := initWide_seed s
@[simp] theorem buildWide_sym (n : Nat) (s : State) : (buildWide n s).sym = s.sym := initWide_sym s
@[simp] theorem buildWide_epoch (n : Nat) (s : State) : (buildWide n s).epoch = s.epoch :=
  initWide_epoch s
@[simp] theorem buildWide_inputs (n : Nat) (s : State) : (buildWide n s).inputs = s.inputs :=
  initWide_inputs s
@[simp] theorem buildWide_responses (n : Nat) (s : State) : (buildWide n s).responses = s.responses :=
  initWide_responses s
@[simp] theorem buildWide_initN (n : Nat) (s : State) : (buildWide n s).initN = s.initN :=
  initWide_initN s
@[simp] theorem buildWide_powN (n : Nat) (s : State) : (buildWide n s).powN = s.powN := initWide_powN s
@[simp] theorem buildWide_nN (n : Nat) (s : State) : (buildWide n s).nN = s.nN := initWide_nN s
@[simp] theorem buildWide_preN (n : Nat) (s : State) : (buildWide n s).preN = s.preN := initWide_preN s
@[simp] theorem buildWide_sufN (n : Nat) (s : State) : (buildWide n s).sufN = s.sufN := initWide_sufN s
@[simp] theorem buildWide_initW (n : Nat) (s : State) : (buildWide n s).initW = true :=
  initWide_initW s
@[simp] theorem buildWide_baseW (n : Nat) (s : State) : (buildWide n s).baseW = (initWide s).baseW := rfl
@[simp] theorem buildWide_powW (n : Nat) (s : State) : (buildWide n s).powW = (initWide s).powW := rfl

@[simp] theorem buildNarrow_seed (n : Nat) (s : State) : (buildNarrow n s).seed = s.seed :=
  initNarrow_seed s
@[simp] theorem buildNarrow_sym (n : Nat) (s : State) : (buildNarrow n s).sym = s.sym :=
  initNarrow_sym s
@[simp] theorem buildNarrow_epoch (n : Nat) (s : State) : (buildNarrow n s).epoch = s.epoch :=
  initNarrow_epoch s
@[simp] theorem buildNarrow_inputs (n : Nat) (s : State) : (buildNarrow n s).inputs = s.inputs :=
  initNarrow_inputs s
@[simp] theorem buildNarrow_responses (n : Nat) (s : State) :
    (buildNarrow n s).responses = s.responses := initNarrow_responses s
@[simp] theorem buildNarrow_initW (n : Nat) (s : State) : (buildNarrow n s).initW = s.initW :=
  initNarrow_initW s
@[simp] theorem buildNarrow_baseW (n : Nat) (s : State) : (buildNarrow n s).baseW = s.baseW :=
  initNarrow_baseW s
@[simp] theorem buildNarrow_powW (n : Nat) (s : State) : (buildNarrow n s).powW = s.powW :=
  initNarrow_powW s
@[simp] theorem buildNarrow_nW (n : Nat) (s : State) : (buildNarrow n s).nW = s.nW := initNarrow_nW s
@[simp] theorem buildNarrow_preW (n : Nat) (s : State) : (buildNarrow n s).preW = s.preW :=
  initNarrow_preW s
@[simp] theorem buildNarrow_sufW (n : Nat) (s : State) : (buildNarrow n s).sufW = s.sufW :=
  initNarrow_sufW s
@[simp] theorem buildNarrow_initN (n : Nat) (s : State) : (buildNarrow n s).initN = true :=
  initNarrow_initN s
@[simp] theorem buildNarrow_powN (n : Nat) (s : State) :
    (buildNarrow n s).powN = (initNarrow s).powN := rfl

/-! ### The arrays that a construction leaves, as the walks of 41_rollhash_wide.md R141 and
43_rollhash_narrow.md R176 -/

theorem buildWide_nW_eq (n : Nat) (s : State) : (buildWide n s).nW = BitVec.ofNat 32 n := rfl

theorem buildWide_preW_eq (n : Nat) (s : State) : (buildWide n s).preW =
    (prefixAccs (hashStepWide (initWide s).baseW.toNat) (symbols (initWide s) n)).map
      (BitVec.ofNat 61) := rfl

theorem buildWide_sufW_eq (n : Nat) (s : State) : (buildWide n s).sufW =
    (suffixAccs (hashStepWide (initWide s).baseW.toNat) (symbols (initWide s) n)).map
      (BitVec.ofNat 61) := rfl

theorem buildNarrow_nN_eq (n : Nat) (s : State) : (buildNarrow n s).nN = BitVec.ofNat 32 n := rfl

theorem buildNarrow_preN_eq (n : Nat) (s : State) : (buildNarrow n s).preN =
    (prefixAccs (hashStepNarrow Config.baseN.toNat) (symbols (initNarrow s) n)).map
      (BitVec.ofNat 30) := rfl

theorem buildNarrow_sufN_eq (n : Nat) (s : State) : (buildNarrow n s).sufN =
    (suffixAccs (hashStepNarrow Config.baseN.toNat) (symbols (initNarrow s) n)).map
      (BitVec.ofNat 30) := rfl

/-! ### When two states read an array alike -/

theorem preWAt_congr (h : s.preW = t.preW) (k : Nat) : preWAt s k = preWAt t k := by
  simp [preWAt, h]

theorem sufWAt_congr (h : s.sufW = t.sufW) (k : Nat) : sufWAt s k = sufWAt t k := by
  cases k <;> simp [sufWAt, h]

theorem preNAt_congr (h : s.preN = t.preN) (k : Nat) : preNAt s k = preNAt t k := by
  simp [preNAt, h]

theorem sufNAt_congr (h : s.sufN = t.sufN) (k : Nat) : sufNAt s k = sufNAt t k := by
  simp [sufNAt, h]

/-- What `pow_w[k]` reads depends on the table, the parameter and the count of resets alone. -/
theorem powWAt_congr (h : s.powW = t.powW) (hm : s.maxLen = t.maxLen) (he : s.epoch = t.epoch)
    (k : Nat) : powWAt s k = powWAt t k := by
  simp [powWAt, h, hm, he]

theorem powNAt_congr (h : s.powN = t.powN) (hm : s.maxLen = t.maxLen) (he : s.epoch = t.epoch)
    (k : Nat) : powNAt s k = powNAt t k := by
  simp [powNAt, h, hm, he]

/-! ### The frame of a command, part by part: only the commands named in a lemma's hypotheses can
change the part -/

theorem exec_maxLen (h : exec i s = .next t) : t.maxLen = s.maxLen := by
  cases effect_of_exec h <;> simp

theorem exec_epoch (h : exec i s = .next t) : t.epoch = s.epoch := by
  cases effect_of_exec h <;> simp

theorem exec_inputs (h : exec i s = .next t) : t.inputs = s.inputs := by
  cases effect_of_exec h <;> simp

/-- A command that answers delivers one response, with the value 0 unless its status is `OK`
(30_encoding.md R96). -/
theorem exec_responses (h : exec i s = .next t) :
    ∃ r, t.responses = r :: s.responses ∧ (r.status ≠ .ok → r.val = 0) := by
  cases effect_of_exec h with
  | answerOnly st v hv => exact ⟨⟨st, v⟩, rfl, hv⟩
  | _ => exact ⟨_, congrArg (List.cons _) (by simp), fun hne => absurd rfl hne⟩

theorem exec_seed (h : exec i s = .next t) (hi : ∀ r v, i ≠ .csrw r v) : t.seed = s.seed := by
  cases effect_of_exec h with
  | writeSeed v e => exact absurd e (hi .seed v)
  | _ => simp

theorem exec_sym (h : exec i s = .next t) (hi : ∀ k v, i ≠ .wsym k v) : t.sym = s.sym := by
  cases effect_of_exec h with
  | writeSym k v e => exact absurd e (hi k v)
  | _ => simp

theorem exec_instanceW (h : exec i s = .next t) (hi : ∀ n, i ≠ .buildW n) :
    t.nW = s.nW ∧ t.preW = s.preW ∧ t.sufW = s.sufW := by
  cases effect_of_exec h with
  | buildWide n e => exact absurd e (hi n)
  | _ => simp

theorem exec_instanceN (h : exec i s = .next t) (hi : ∀ n, i ≠ .buildN n) :
    t.nN = s.nN ∧ t.preN = s.preN ∧ t.sufN = s.sufN := by
  cases effect_of_exec h with
  | buildNarrow n e => exact absurd e (hi n)
  | _ => simp

theorem exec_tableW (h : exec i s = .next t) (hb : ∀ n, i ≠ .buildW n) (hi : i ≠ .initW) :
    t.initW = s.initW ∧ t.baseW = s.baseW ∧ t.powW = s.powW := by
  cases effect_of_exec h with
  | buildWide n e => exact absurd e (hb n)
  | initWide e => exact absurd e hi
  | _ => simp

theorem exec_tableN (h : exec i s = .next t) (hb : ∀ n, i ≠ .buildN n) (hi : i ≠ .initN) :
    t.initN = s.initN ∧ t.powN = s.powN := by
  cases effect_of_exec h with
  | buildNarrow n e => exact absurd e (hb n)
  | initNarrow e => exact absurd e hi
  | _ => simp

/-- Only `BUILD.W` and `INIT.W` write the wide slice (00_scope.md R2). -/
theorem exec_sameWide (h : exec i s = .next t) (hb : ∀ n, i ≠ .buildW n) (hi : i ≠ .initW) :
    SameWide s t := by
  obtain ⟨hn, hpre, hsuf⟩ := exec_instanceW h hb
  obtain ⟨hinit, hbase, hpow⟩ := exec_tableW h hb hi
  exact ⟨hinit.symm, hbase.symm, hpow.symm, hn.symm, hpre.symm, hsuf.symm⟩

/-- Only `BUILD.N` and `INIT.N` write the narrow slice (00_scope.md R2). -/
theorem exec_sameNarrow (h : exec i s = .next t) (hb : ∀ n, i ≠ .buildN n) (hi : i ≠ .initN) :
    SameNarrow s t := by
  obtain ⟨hn, hpre, hsuf⟩ := exec_instanceN h hb
  obtain ⟨hinit, hpow⟩ := exec_tableN h hb hi
  exact ⟨hinit.symm, hpow.symm, hn.symm, hpre.symm, hsuf.symm⟩

/-! ### The obligations on the frame -/

/-- Settles O48, from the frame of the response, the pending events and the model's own fields. -/
theorem everyCommandAnswersOnce : Obligations.EveryCommandAnswersOnce := by
  intro i s t h
  obtain ⟨r, hr, -⟩ := exec_responses h
  exact ⟨⟨r, hr⟩, exec_inputs h, exec_maxLen h, exec_epoch h⟩

/-- Settles O50: each clause is the frame lemma of its part, read entry by entry. -/
theorem writingCommandsFrame : Obligations.WritingCommandsFrame := by
  intro i s t h
  refine ⟨fun hi => ?_, fun hi => ?_, exec_seed h, fun hi => ?_, fun hi => ?_, fun hi => ?_,
    fun hb hi => ?_, fun hb hi => ?_⟩
  · exact exec_sameWide h (by rintro n rfl; cases hi) (by rintro rfl; cases hi)
  · exact exec_sameNarrow h (by rintro n rfl; cases hi) (by rintro rfl; cases hi)
  · exact ⟨exec_sym h hi, symAt_congr (exec_sym h hi) (exec_epoch h)⟩
  · obtain ⟨hn, hpre, hsuf⟩ := exec_instanceW h hi
    exact ⟨hn, preWAt_congr hpre, sufWAt_congr hsuf⟩
  · obtain ⟨hn, hpre, hsuf⟩ := exec_instanceN h hi
    exact ⟨hn, preNAt_congr hpre, sufNAt_congr hsuf⟩
  · obtain ⟨hinit, hbase, hpow⟩ := exec_tableW h hb hi
    exact ⟨hinit, hbase, powWAt_congr hpow (exec_maxLen h) (exec_epoch h)⟩
  · obtain ⟨hinit, hpow⟩ := exec_tableN h hb hi
    exact ⟨hinit, powNAt_congr hpow (exec_maxLen h) (exec_epoch h)⟩

end Sys2Proof
end

section
/-! SUPPORT. A command run from two states in step: the relation between the two outcomes, one rule per
operation, and with it that a command of one slice does not depend on the other. -/

namespace Sys2Proof

open Sys2Proof.Machine Sys2Proof.Laws

/-- The two outcomes are in step: the same response over two states in the relation `R`, or the same
stop. -/
inductive InStep (R : State → State → Prop) : Result → Result → Prop
  | respond {u u' : State} (st : Status) (v : Lane) : R u u' →
      InStep R (.next (Machine.respond st v u)) (.next (Machine.respond st v u'))
  | stop (f : Fault) : InStep R (.fault f) (.fault f)

section Rules

variable {R : State → State → Prop} {s s' : State}

theorem InStep.raise (st : Status) (h : R s s') : InStep R (raiseStatus st s) (raiseStatus st s') :=
  .respond st 0 h

theorem InStep.answer {v v' : Lane} (hv : v = v') (h : R s s') :
    InStep R (answer v s) (answer v' s') :=
  hv ▸ .respond .ok v h

theorem InStep.ite {c c' : Prop} [Decidable c] [Decidable c'] {x x' y y' : Result} (hc : c ↔ c')
    (hx : InStep R x x') (hy : InStep R y y') :
    InStep R (if c then x else y) (if c' then x' else y') := by
  by_cases h : c
  · rwa [if_pos h, if_pos (hc.1 h)]
  · rwa [if_neg h, if_neg (mt hc.2 h)]

theorem InStep.withEntry {w : Nat} {a : ArrayName} {k : Nat} {e e' : Option (BitVec w)}
    {f f' : BitVec w → Result} (he : e = e') (hf : ∀ v, InStep R (f v) (f' v)) :
    InStep R (withEntry a k e f) (withEntry a k e' f') := by
  subst he
  cases e with
  | none => exact .stop _
  | some v => exact hf v

theorem InStep.answerEntry {w : Nat} {a : ArrayName} {k : Nat} {e e' : Option (BitVec w)} (he : e = e')
    (h : R s s') : InStep R (answerEntry a k e s) (answerEntry a k e' s') :=
  .withEntry he fun _ => .answer rfl h

/-- A query reads three entries and answers. -/
theorem InStep.query {w : Nat} {a b c : ArrayName} {j k l : Nat} {e e' f f' g g' : Option (BitVec w)}
    {q : BitVec w → BitVec w → BitVec w → Lane} (he : e = e') (hf : f = f') (hg : g = g')
    (h : R s s') :
    InStep R
      (Machine.withEntry a j e fun x => Machine.withEntry b k f fun y => Machine.withEntry c l g fun z =>
        Machine.answer (q x y z) s)
      (Machine.withEntry a j e' fun x => Machine.withEntry b k f' fun y =>
        Machine.withEntry c l g' fun z => Machine.answer (q x y z) s') :=
  .withEntry he fun _ => .withEntry hf fun _ => .withEntry hg fun _ => .answer rfl h

/-- A command that answers from one of two states in step answers the same from the other. -/
theorem InStep.exec_next {i : Instr} {t : State}
    (hR : ∀ {st v u u'}, R u u' → R (Machine.respond st v u) (Machine.respond st v u'))
    (hx : InStep R (exec i s) (exec i s')) (h : exec i s = .next t) :
    ∃ t', exec i s' = .next t' ∧ R t t' ∧
      ∃ r, t.responses = r :: s.responses ∧ t'.responses = r :: s'.responses := by
  rw [h] at hx
  generalize h' : exec i s' = y at hx
  cases hx with
  | @respond u u' st v hu =>
    obtain ⟨r, hr, -⟩ := exec_responses h
    obtain ⟨r', hr', -⟩ := exec_responses h'
    obtain ⟨rfl, hu1⟩ := List.cons.inj hr
    obtain ⟨rfl, hu2⟩ := List.cons.inj hr'
    exact ⟨_, rfl, hR hu, ⟨st, v⟩, hr, hr'⟩

end Rules

/-- A lane is an index or a length that one of the two states accepts exactly if the other does. -/
theorem SameShared.belowMaxLen {s t : State} (h : SameShared s t) (n : Lane) :
    belowMaxLen s n ↔ belowMaxLen t n := by
  rw [Machine.belowMaxLen, h.maxLen]

/-! ### The wide slice -/

/-- The two states agree on the wide slice and on what the slices share. -/
structure AgreeWide (s t : State) : Prop where
  slice : SameWide s t
  shared : SameShared s t

section Wide

variable {s t : State}

theorem AgreeWide.respond {st : Status} {v : Lane} (h : AgreeWide s t) :
    AgreeWide (respond st v s) (respond st v t) :=
  ⟨⟨h.slice.initW, h.slice.baseW, h.slice.powW, h.slice.nW, h.slice.preW, h.slice.sufW⟩,
    ⟨h.shared.seed, h.shared.sym, h.shared.maxLen, h.shared.epoch⟩⟩

theorem AgreeWide.powWAt (h : AgreeWide s t) (k : Nat) : powWAt s k = powWAt t k :=
  powWAt_congr h.slice.powW h.shared.maxLen h.shared.epoch k

theorem AgreeWide.isRange (h : AgreeWide s t) (l r : Lane) : isRange l r s.nW ↔ isRange l r t.nW := by
  rw [h.slice.nW]

theorem AgreeWide.initWide (h : AgreeWide s t) : AgreeWide (initWide s) (initWide t) := by
  cases hs : s.initW with
  | true => rwa [initWide_of_init hs, initWide_of_init (h.slice.initW ▸ hs)]
  | false =>
    rw [initWide_of_not_init hs, initWide_of_not_init (h.slice.initW ▸ hs)]
    obtain ⟨⟨-, -, -, hn, hpre, hsuf⟩, hshared⟩ := h
    exact ⟨⟨rfl, by simp [hshared.seed], by simp [hshared.seed], hn, hpre, hsuf⟩,
      ⟨hshared.seed, hshared.sym, hshared.maxLen, hshared.epoch⟩⟩

theorem AgreeWide.buildWide (h : AgreeWide s t) (n : Nat) :
    AgreeWide (buildWide n s) (buildWide n t) := by
  obtain ⟨⟨hinit, hbase, hpow, -, -, -⟩, hshared⟩ := h.initWide
  have hsym := symbols_congr hshared.sym hshared.epoch n
  exact ⟨⟨hinit, hbase, hpow, by simp only [buildWide_nW_eq],
    by rw [buildWide_preW_eq, buildWide_preW_eq, hbase, hsym],
    by rw [buildWide_sufW_eq, buildWide_sufW_eq, hbase, hsym]⟩,
    ⟨hshared.seed, hshared.sym, hshared.maxLen, hshared.epoch⟩⟩

/-- A wide command keeps two states that agree on the wide slice in step. -/
theorem AgreeWide.exec (h : AgreeWide s t) {i : Instr} (hi : i.isWide = true) :
    InStep AgreeWide (exec i s) (exec i t) := by
  cases i with
  | mulW a b => exact .ite Iff.rfl (.answer rfl h) (.raise _ h)
  | initW => exact .answer (by rw [h.initWide.slice.baseW]) h.initWide
  | buildW n => exact .ite (h.shared.belowMaxLen n) (.answer rfl (h.buildWide _)) (.raise _ h)
  | gethW l r =>
    exact .ite (h.isRange l r)
      (.query (preWAt_congr h.slice.preW _) (h.powWAt _) (preWAt_congr h.slice.preW _) h) (.raise _ h)
  | revhW l r =>
    exact .ite (h.isRange l r)
      (.query (sufWAt_congr h.slice.sufW _) (h.powWAt _) (sufWAt_congr h.slice.sufW _) h) (.raise _ h)
  | rdpowW k =>
    exact .ite (by rw [h.slice.initW]) (.raise _ h)
      (.ite (h.shared.belowMaxLen k) (.answerEntry (h.powWAt _) h) (.raise _ h))
  | rdpreW k =>
    exact .ite (by rw [h.slice.nW]) (.answerEntry (preWAt_congr h.slice.preW _) h) (.raise _ h)
  | rdsufW k =>
    exact .ite (by rw [h.slice.nW]) (.answerEntry (sufWAt_congr h.slice.sufW _) h) (.raise _ h)
  | _ => cases hi

end Wide

/-! ### The narrow slice -/

/-- The two states agree on the narrow slice and on what the slices share. -/
structure AgreeNarrow (s t : State) : Prop where
  slice : SameNarrow s t
  shared : SameShared s t

section Narrow

variable {s t : State}

theorem AgreeNarrow.respond {st : Status} {v : Lane} (h : AgreeNarrow s t) :
    AgreeNarrow (respond st v s) (respond st v t) :=
  ⟨⟨h.slice.initN, h.slice.powN, h.slice.nN, h.slice.preN, h.slice.sufN⟩,
    ⟨h.shared.seed, h.shared.sym, h.shared.maxLen, h.shared.epoch⟩⟩

theorem AgreeNarrow.powNAt (h : AgreeNarrow s t) (k : Nat) : powNAt s k = powNAt t k :=
  powNAt_congr h.slice.powN h.shared.maxLen h.shared.epoch k

theorem AgreeNarrow.isRange (h : AgreeNarrow s t) (l r : Lane) :
    isRange l r s.nN ↔ isRange l r t.nN := by
  rw [h.slice.nN]

theorem AgreeNarrow.initNarrow (h : AgreeNarrow s t) : AgreeNarrow (initNarrow s) (initNarrow t) := by
  cases hs : s.initN with
  | true => rwa [initNarrow_of_init hs, initNarrow_of_init (h.slice.initN ▸ hs)]
  | false =>
    rw [initNarrow_of_not_init hs, initNarrow_of_not_init (h.slice.initN ▸ hs)]
    obtain ⟨⟨-, -, hn, hpre, hsuf⟩, hshared⟩ := h
    exact ⟨⟨rfl, rfl, hn, hpre, hsuf⟩,
      ⟨hshared.seed, hshared.sym, hshared.maxLen, hshared.epoch⟩⟩

theorem AgreeNarrow.buildNarrow (h : AgreeNarrow s t) (n : Nat) :
    AgreeNarrow (buildNarrow n s) (buildNarrow n t) := by
  obtain ⟨⟨hinit, hpow, -, -, -⟩, hshared⟩ := h.initNarrow
  have hsym := symbols_congr hshared.sym hshared.epoch n
  exact ⟨⟨hinit, hpow, by simp only [buildNarrow_nN_eq],
    by rw [buildNarrow_preN_eq, buildNarrow_preN_eq, hsym],
    by rw [buildNarrow_sufN_eq, buildNarrow_sufN_eq, hsym]⟩,
    ⟨hshared.seed, hshared.sym, hshared.maxLen, hshared.epoch⟩⟩

/-- A narrow command keeps two states that agree on the narrow slice in step. -/
theorem AgreeNarrow.exec (h : AgreeNarrow s t) {i : Instr} (hi : i.isNarrow = true) :
    InStep AgreeNarrow (exec i s) (exec i t) := by
  cases i with
  | mulN a b => exact .ite Iff.rfl (.answer rfl h) (.raise _ h)
  | initN => exact .answer rfl h.initNarrow
  | buildN n => exact .ite (h.shared.belowMaxLen n) (.answer rfl (h.buildNarrow _)) (.raise _ h)
  | gethN l r =>
    exact .ite (h.isRange l r)
      (.query (preNAt_congr h.slice.preN _) (h.powNAt _) (preNAt_congr h.slice.preN _) h) (.raise _ h)
  | revhN l r =>
    exact .ite (h.isRange l r)
      (.query (sufNAt_congr h.slice.sufN _) (h.powNAt _) (sufNAt_congr h.slice.sufN _) h) (.raise _ h)
  | rdpowN k =>
    exact .ite (by rw [h.slice.initN]) (.raise _ h)
      (.ite (h.shared.belowMaxLen k) (.answerEntry (h.powNAt _) h) (.raise _ h))
  | rdpreN k =>
    exact .ite (by rw [h.slice.nN]) (.answerEntry (preNAt_congr h.slice.preN _) h) (.raise _ h)
  | rdsufN k =>
    exact .ite (by rw [h.slice.nN]) (.answerEntry (sufNAt_congr h.slice.sufN _) h) (.raise _ h)
  | _ => cases hi

end Narrow

/-- Settles O52: from two states that agree on a slice and the shared part, a command of that slice runs
in step. -/
theorem slicesDoNotInterfere : Obligations.SlicesDoNotInterfere := by
  intro i s s' t hshared h
  refine ⟨fun hi hw => ?_, fun hi hn => ?_⟩
  · have hx := AgreeWide.exec ⟨hw, hshared⟩ hi
    obtain ⟨t', ht', ⟨hwide, hsh⟩, hr⟩ := hx.exec_next AgreeWide.respond h
    exact ⟨t', ht', hwide, hsh, hr⟩
  · have hx := AgreeNarrow.exec ⟨hn, hshared⟩ hi
    obtain ⟨t', ht', ⟨hnarrow, hsh⟩, hr⟩ := hx.exec_next AgreeNarrow.respond h
    exact ⟨t', ht', hnarrow, hsh, hr⟩

end Sys2Proof
end

section
/-! SUPPORT. Everything a step can do, said once, and the machine's invariant: it holds right after a
reset and every operation keeps it. -/

namespace Sys2Proof

open Sys2Proof.Machine Sys2Proof.Laws

/-! ### Everything a step can do -/

/-- With nothing pending the block holds its state (60_exceptions.md R225). -/
theorem step_of_idle {s : State} (h : s.inputs = []) : step s = .next s := by
  simp only [step, stepEngine, h]

theorem step_of_event {s : State} {e : HostEvent} {rest : List HostEvent} (h : s.inputs = e :: rest) :
    step s = runEvent e (dropInput s) := by
  simp only [step, stepEngine, h]

/-- The next states of a step: nothing was pending; the oldest event was a reset; it was a command with an
illegal word; it was a legal command. -/
inductive StepEffect (s : State) : State → Prop
  | hold : s.inputs = [] → StepEffect s s
  | reset (strap : Lane) : StepEffect s (hostReset strap (dropInput s))
  | illegal : StepEffect s (respond .illegalCommand 0 (dropInput s))
  | command {i : Instr} {t : State} : exec i (dropInput s) = .next t → StepEffect s t

theorem stepEffect_of_runCommand {c : Command} {s t : State}
    (h : runCommand c (dropInput s) = .next t) : StepEffect s t := by
  unfold runCommand at h
  split at h
  · exact .command h
  · cases h
    exact .illegal

theorem stepEffect_of_step {s t : State} (h : step s = .next t) : StepEffect s t := by
  cases hs : s.inputs with
  | nil =>
    cases (step_of_idle hs).symm.trans h
    exact .hold hs
  | cons e rest =>
    rw [step_of_event hs] at h
    cases e with
    | command c => exact stepEffect_of_runCommand h
    | reset strap =>
      cases h
      exact .reset strap
    | resetDuring c strap =>
      cases h
      exact .reset strap

theorem step_maxLen {s t : State} (h : step s = .next t) : t.maxLen = s.maxLen := by
  cases stepEffect_of_step h with
  | command hx => exact (exec_maxLen hx).trans (dropInput_maxLen s)
  | _ => simp

/-- The derived base lies in the middle third of the wide field (00_scope.md R10). -/
theorem deriveBase_middle_third (seed : Lane) :
    Config.midLo ≤ (deriveBase seed).toNat ∧ (deriveBase seed).toNat < 2 * Config.midLo := by
  have h : seed.toNat % Config.midLo < Config.midLo := Nat.mod_lt _ (by decide)
  rw [deriveBase_toNat]
  omega

/-! ### The wide slice -/

section Wide

variable {s t : State}

/-- The wide invariant speaks of the wide slice and the parameter alone. -/
theorem WideInv.of_same (inv : WideInv s) (h : SameWide s t) (hm : t.maxLen = s.maxLen) :
    WideInv t where
  length_lt := by rw [← h.nW, hm]; exact inv.length_lt
  pre_length := by rw [← h.nW, ← h.preW]; exact inv.pre_length
  suf_length := by rw [← h.nW, ← h.sufW]; exact inv.suf_length
  pre_first := by rw [← preWAt_congr h.preW]; exact inv.pre_first
  suf_last := by rw [← h.nW, ← sufWAt_congr h.sufW]; exact inv.suf_last
  pre_reduced := by rw [← h.preW]; exact inv.pre_reduced
  suf_reduced := by rw [← h.sufW]; exact inv.suf_reduced
  built_init := by rw [← h.nW, ← h.initW]; exact inv.built_init
  before_init := by rw [← h.initW, ← h.baseW, ← h.powW]; exact inv.before_init
  after_init := by rw [← h.initW, ← h.baseW, ← h.powW]; exact inv.after_init

theorem wideInv_resetWith (strap : Lane) {maxLen : BitVec 32} (epoch : Nat) (h : 1 ≤ maxLen.toNat) :
    WideInv (State.resetWith strap maxLen epoch) where
  length_lt := h
  pre_length := rfl
  suf_length := rfl
  pre_first := rfl
  suf_last := rfl
  pre_reduced := by simp [State.resetWith, Config.mW]
  suf_reduced := by simp [State.resetWith, Config.mW]
  built_init := fun hn => absurd hn (lt_irrefl 0)
  before_init := fun _ => ⟨rfl, rfl⟩
  after_init := nofun

theorem WideInv.initWide (inv : WideInv s) : WideInv (initWide s) := by
  cases hs : s.initW with
  | true => rwa [initWide_of_init hs]
  | false =>
    rw [initWide_of_not_init hs]
    obtain ⟨hmid, hmid'⟩ := deriveBase_middle_third s.seed
    exact { inv with
      built_init := fun _ => rfl
      before_init := nofun
      after_init := fun _ => ⟨hmid, hmid', rfl⟩ }

theorem preWAt_buildWide_first (n : Nat) (s : State) : preWAt (buildWide n s) 0 = some 0 := by
  have h := eq_some_of_entryNum (e := preWAt (buildWide n s) 0)
    (by simp [preWAt, buildWide_preW_eq])
  rwa [preWAt_buildWide, prefixAccs_first] at h

theorem sufWAt_buildWide_last (n : Nat) (s : State) : sufWAt (buildWide n s) (n + 1) = some 0 := by
  have h := eq_some_of_entryNum (e := sufWAt (buildWide n s) (n + 1))
    (by simp [sufWAt, buildWide_sufW_eq])
  have last := suffixAccs_last (step := hashStepWide (initWide s).baseW.toNat) (symbols s n)
  rw [symbols_length] at last
  rwa [sufWAt_buildWide, last] at h

theorem WideInv.buildWide (inv : WideInv s) {n : Nat} (hn : n < s.maxLen.toNat) :
    WideInv (buildWide n s) where
  length_lt := by rwa [buildWide_nW hn, buildWide_maxLen]
  pre_length := by rw [buildWide_nW hn]; simp [buildWide_preW_eq]
  suf_length := by rw [buildWide_nW hn]; simp [buildWide_sufW_eq]
  pre_first := preWAt_buildWide_first n s
  suf_last := by rw [buildWide_nW hn]; exact sufWAt_buildWide_last n s
  pre_reduced := buildWide_preW_reduced n s
  suf_reduced := buildWide_sufW_reduced n s
  built_init := fun _ => buildWide_initW n s
  before_init := by simp
  after_init := fun _ => inv.initWide.after_init (initWide_initW s)

theorem WideInv.respond (inv : WideInv s) (st : Status) (v : Lane) : WideInv (respond st v s) :=
  inv.of_same ⟨rfl, rfl, rfl, rfl, rfl, rfl⟩ rfl

theorem WideInv.exec (inv : WideInv s) {i : Instr} (h : exec i s = .next t) : WideInv t := by
  cases effect_of_exec h with
  | initWide => exact inv.initWide.respond _ _
  | buildWide n _ hn => exact (inv.buildWide hn).respond _ _
  | _ => exact inv.of_same (by constructor <;> simp) (by simp)

end Wide

/-! ### The narrow slice -/

section Narrow

variable {s t : State}

/-- The narrow invariant speaks of the narrow slice and the parameter alone. -/
theorem NarrowInv.of_same (inv : NarrowInv s) (h : SameNarrow s t) (hm : t.maxLen = s.maxLen) :
    NarrowInv t where
  length_lt := by rw [← h.nN, hm]; exact inv.length_lt
  pre_length := by rw [← h.nN, ← h.preN]; exact inv.pre_length
  suf_length := by rw [← h.nN, ← h.sufN]; exact inv.suf_length
  pre_first := by rw [← preNAt_congr h.preN]; exact inv.pre_first
  suf_last := by rw [← h.nN, ← sufNAt_congr h.sufN]; exact inv.suf_last
  pre_reduced := by rw [← h.preN]; exact inv.pre_reduced
  suf_reduced := by rw [← h.sufN]; exact inv.suf_reduced
  built_init := by rw [← h.nN, ← h.initN]; exact inv.built_init
  before_init := by rw [← h.initN, ← h.powN]; exact inv.before_init
  after_init := by rw [← h.initN, ← h.powN]; exact inv.after_init

theorem narrowInv_resetWith (strap : Lane) {maxLen : BitVec 32} (epoch : Nat)
    (h : 1 ≤ maxLen.toNat) : NarrowInv (State.resetWith strap maxLen epoch) where
  length_lt := h
  pre_length := rfl
  suf_length := rfl
  pre_first := rfl
  suf_last := rfl
  pre_reduced := by simp [State.resetWith, Config.mN]
  suf_reduced := by simp [State.resetWith, Config.mN]
  built_init := fun hn => absurd hn (lt_irrefl 0)
  before_init := fun _ => rfl
  after_init := nofun

theorem NarrowInv.initNarrow (inv : NarrowInv s) : NarrowInv (initNarrow s) := by
  cases hs : s.initN with
  | true => rwa [initNarrow_of_init hs]
  | false =>
    rw [initNarrow_of_not_init hs]
    exact { inv with
      built_init := fun _ => rfl
      before_init := nofun
      after_init := fun _ => rfl }

theorem preNAt_buildNarrow_first (n : Nat) (s : State) : preNAt (buildNarrow n s) 0 = some 0 := by
  have h := eq_some_of_entryNum (e := preNAt (buildNarrow n s) 0)
    (by simp [preNAt, buildNarrow_preN_eq])
  rwa [preNAt_buildNarrow, prefixAccs_first] at h

theorem sufNAt_buildNarrow_last (n : Nat) (s : State) : sufNAt (buildNarrow n s) n = some 0 := by
  have h := eq_some_of_entryNum (e := sufNAt (buildNarrow n s) n)
    (by simp [sufNAt, buildNarrow_sufN_eq])
  have last := suffixAccs_last (step := hashStepNarrow Config.baseN.toNat) (symbols s n)
  rw [symbols_length] at last
  rwa [sufNAt_buildNarrow, last] at h

theorem NarrowInv.buildNarrow (inv : NarrowInv s) {n : Nat} (hn : n < s.maxLen.toNat) :
    NarrowInv (buildNarrow n s) where
  length_lt := by rwa [buildNarrow_nN hn, buildNarrow_maxLen]
  pre_length := by rw [buildNarrow_nN hn]; simp [buildNarrow_preN_eq]
  suf_length := by rw [buildNarrow_nN hn]; simp [buildNarrow_sufN_eq]
  pre_first := preNAt_buildNarrow_first n s
  suf_last := by rw [buildNarrow_nN hn]; exact sufNAt_buildNarrow_last n s
  pre_reduced := buildNarrow_preN_reduced n s
  suf_reduced := buildNarrow_sufN_reduced n s
  built_init := fun _ => buildNarrow_initN n s
  before_init := by simp
  after_init := fun _ => inv.initNarrow.after_init (initNarrow_initN s)

theorem NarrowInv.respond (inv : NarrowInv s) (st : Status) (v : Lane) : NarrowInv (respond st v s) :=
  inv.of_same ⟨rfl, rfl, rfl, rfl, rfl⟩ rfl

theorem NarrowInv.exec (inv : NarrowInv s) {i : Instr} (h : exec i s = .next t) : NarrowInv t := by
  cases effect_of_exec h with
  | initNarrow => exact inv.initNarrow.respond _ _
  | buildNarrow n _ hn => exact (inv.buildNarrow hn).respond _ _
  | _ => exact inv.of_same (by constructor <;> simp) (by simp)

end Narrow

/-! ### The machine -/

section MachineInvariant

variable {s t : State}

/-- A command keeps the buffer canonical and its indices below `MAXLEN`. -/
theorem exec_memory {i : Instr} (h : exec i s = .next t) (hwf : s.sym.wf)
    (hb : s.sym.below s.maxLen.toNat) : t.sym.wf ∧ t.sym.below t.maxLen.toNat := by
  cases effect_of_exec h with
  | writeSym k v _ hk => exact ⟨insert_wf hwf, insert_below hk hb⟩
  | _ => exact ⟨by simpa using hwf, by simpa using hb⟩

theorem MachineInv.exec (inv : MachineInv s) {i : Instr} (h : exec i s = .next t) :
    MachineInv t := by
  obtain ⟨hwf, hbelow⟩ := exec_memory h inv.memory inv.memory_below
  exact ⟨inv.wide.exec h, inv.narrow.exec h, hwf, hbelow, by rw [exec_maxLen h]; exact inv.maxLen_pos⟩

theorem MachineInv.dropInput (inv : MachineInv s) : MachineInv (dropInput s) :=
  ⟨inv.wide.of_same ⟨rfl, rfl, rfl, rfl, rfl, rfl⟩ rfl,
    inv.narrow.of_same ⟨rfl, rfl, rfl, rfl, rfl⟩ rfl, inv.memory, inv.memory_below, inv.maxLen_pos⟩

theorem MachineInv.respond (inv : MachineInv s) (st : Status) (v : Lane) :
    MachineInv (respond st v s) :=
  ⟨inv.wide.respond st v, inv.narrow.respond st v, inv.memory, inv.memory_below, inv.maxLen_pos⟩

theorem machineInv_resetWith (strap : Lane) {maxLen : BitVec 32} (epoch : Nat)
    (h : 1 ≤ maxLen.toNat) : MachineInv (State.resetWith strap maxLen epoch) :=
  ⟨wideInv_resetWith strap epoch h, narrowInv_resetWith strap epoch h,
    reset_memory_wf strap maxLen epoch, nofun, h⟩

theorem MachineInv.hostReset (inv : MachineInv s) (strap : Lane) : MachineInv (hostReset strap s) := by
  have h := machineInv_resetWith strap (s.epoch + 1) inv.maxLen_pos
  exact ⟨h.wide.of_same ⟨rfl, rfl, rfl, rfl, rfl, rfl⟩ rfl,
    h.narrow.of_same ⟨rfl, rfl, rfl, rfl, rfl⟩ rfl, h.memory, h.memory_below, h.maxLen_pos⟩

end MachineInvariant

/-- Settles O54, by the four things a step can do. -/
theorem everyStepKeepsTheInvariant : Obligations.EveryStepKeepsTheInvariant := by
  intro s t inv h
  cases stepEffect_of_step h with
  | hold => exact inv
  | reset strap => exact inv.dropInput.hostReset strap
  | illegal => exact inv.dropInput.respond .illegalCommand 0
  | command hx => exact inv.dropInput.exec hx

end Sys2Proof
end

section
/-! SUPPORT. In a state that meets the invariant every command answers: each entry that a rule reads is
there (20_memory.md R65, R66). Then the parameter `MAXLEN` and the reset state. -/

namespace Sys2Proof

open Sys2Proof.Machine Sys2Proof.Laws

/-! ### The entries that are there -/

section Entries

variable {s : State} {k : Nat}

@[simp] theorem powWAt_isSome : (powWAt s k).isSome = true ↔ k < s.maxLen.toNat := by
  by_cases h : k < s.maxLen.toNat <;> simp [powWAt, h]

@[simp] theorem powNAt_isSome : (powNAt s k).isSome = true ↔ k < s.maxLen.toNat := by
  by_cases h : k < s.maxLen.toNat <;> simp [powNAt, h]

theorem WideInv.preWAt_isSome (inv : WideInv s) (h : k ≤ s.nW.toNat) : (preWAt s k).isSome = true := by
  have hl := inv.pre_length
  simp only [preWAt, isSome_getElem?]
  omega

theorem WideInv.sufWAt_isSome (inv : WideInv s) (h : k ≤ s.nW.toNat) :
    (sufWAt s (k + 1)).isSome = true := by
  have hl := inv.suf_length
  simp only [sufWAt, isSome_getElem?]
  omega

theorem NarrowInv.preNAt_isSome (inv : NarrowInv s) (h : k ≤ s.nN.toNat) :
    (preNAt s k).isSome = true := by
  have hl := inv.pre_length
  simp only [preNAt, isSome_getElem?]
  omega

theorem NarrowInv.sufNAt_isSome (inv : NarrowInv s) (h : k ≤ s.nN.toNat) :
    (sufNAt s k).isSome = true := by
  have hl := inv.suf_length
  simp only [sufNAt, isSome_getElem?]
  omega

end Entries

/-! ### Operations that answer -/

/-- The outcome is a next state: no fault and no refusal. -/
def Answers (x : Result) : Prop := ∃ t, x = .next t

section Rules

variable {s : State}

theorem answers_answer (v : Lane) (s : State) : Answers (answer v s) := ⟨_, rfl⟩

theorem answers_raise (st : Status) (s : State) : Answers (raiseStatus st s) := ⟨_, rfl⟩

theorem answers_ite {c : Prop} [Decidable c] {x y : Result} (hx : c → Answers x)
    (hy : Answers y) : Answers (if c then x else y) := by
  split_ifs with h
  · exact hx h
  · exact hy

theorem answers_withEntry {w : Nat} {a : ArrayName} {k : Nat} {e : Option (BitVec w)}
    {f : BitVec w → Result} (he : e.isSome = true) (hf : ∀ v, Answers (f v)) :
    Answers (withEntry a k e f) := by
  obtain ⟨v, rfl⟩ := Option.isSome_iff_exists.1 he
  exact hf v

theorem answers_answerEntry {w : Nat} {a : ArrayName} {k : Nat} {e : Option (BitVec w)}
    (he : e.isSome = true) : Answers (answerEntry a k e s) :=
  answers_withEntry he fun _ => answers_answer _ s

theorem answers_query {w : Nat} {a b c : ArrayName} {j k l : Nat} {e f g : Option (BitVec w)}
    {q : BitVec w → BitVec w → BitVec w → Lane} (he : e.isSome = true) (hf : f.isSome = true)
    (hg : g.isSome = true) :
    Answers (withEntry a j e fun x => withEntry b k f fun y => withEntry c l g fun z =>
      answer (q x y z) s) :=
  answers_withEntry he fun _ => answers_withEntry hf fun _ => answers_withEntry hg fun _ =>
    answers_answer _ s

end Rules

section Answering

variable {s : State}

/-- The power that a wide query of a range reads is in the table. -/
theorem WideInv.powWAt_range (inv : WideInv s) {l r : Lane} (h : isRange l r s.nW) :
    (powWAt s (r.toNat - l.toNat + 1)).isSome = true := by
  have := inv.length_lt
  rw [powWAt_isSome]
  omega

theorem NarrowInv.powNAt_range (inv : NarrowInv s) {l r : Lane} (h : isRange l r s.nN) :
    (powNAt s (r.toNat - l.toNat + 1)).isSome = true := by
  have := inv.length_lt
  rw [powNAt_isSome]
  omega

/-- Every command answers in a state that meets the invariant. -/
theorem MachineInv.exec_answers (inv : MachineInv s) (i : Instr) : Answers (Machine.exec i s) := by
  obtain ⟨wide, narrow, -, -, -⟩ := inv
  cases i with
  | mulW a b => exact answers_ite (fun _ => answers_answer _ s) (answers_raise _ s)
  | mulN a b => exact answers_ite (fun _ => answers_answer _ s) (answers_raise _ s)
  | initW => exact answers_answer _ _
  | initN => exact answers_answer _ _
  | buildW n => exact answers_ite (fun _ => answers_answer _ _) (answers_raise _ s)
  | buildN n => exact answers_ite (fun _ => answers_answer _ _) (answers_raise _ s)
  | gethW l r =>
    exact answers_ite (fun h => answers_query (wide.preWAt_isSome h.2) (wide.powWAt_range h)
      (wide.preWAt_isSome (h.1.trans h.2.le))) (answers_raise _ s)
  | gethN l r =>
    exact answers_ite (fun h => answers_query (narrow.preNAt_isSome h.2) (narrow.powNAt_range h)
      (narrow.preNAt_isSome (h.1.trans h.2.le))) (answers_raise _ s)
  | revhW l r =>
    exact answers_ite (fun h => answers_query (wide.sufWAt_isSome (h.1.trans h.2.le))
      (wide.powWAt_range h) (wide.sufWAt_isSome h.2)) (answers_raise _ s)
  | revhN l r =>
    exact answers_ite (fun h => answers_query (narrow.sufNAt_isSome (h.1.trans h.2.le))
      (narrow.powNAt_range h) (narrow.sufNAt_isSome h.2)) (answers_raise _ s)
  | rdpowW k =>
    exact answers_ite (fun _ => answers_raise _ s)
      (answers_ite (fun h => answers_answerEntry (powWAt_isSome.2 h)) (answers_raise _ s))
  | rdpowN k =>
    exact answers_ite (fun _ => answers_raise _ s)
      (answers_ite (fun h => answers_answerEntry (powNAt_isSome.2 h)) (answers_raise _ s))
  | rdpreW k =>
    exact answers_ite (fun h => answers_answerEntry (wide.preWAt_isSome h)) (answers_raise _ s)
  | rdpreN k =>
    exact answers_ite (fun h => answers_answerEntry (narrow.preNAt_isSome h)) (answers_raise _ s)
  | rdsufW k =>
    refine answers_ite (fun h => answers_answerEntry ?_) (answers_raise _ s)
    obtain ⟨j, hj⟩ := Nat.exists_eq_add_of_le' h.1
    rw [hj]
    exact wide.sufWAt_isSome (by omega)
  | rdsufN k =>
    exact answers_ite (fun h => answers_answerEntry (narrow.sufNAt_isSome h)) (answers_raise _ s)
  | wsym k v =>
    exact answers_ite (fun _ => answers_raise _ s)
      (answers_ite (fun _ => answers_answer _ _) (answers_raise _ s))
  | rsym k => exact answers_ite (fun _ => answers_answer _ s) (answers_raise _ s)
  | csrr r => exact answers_answer _ s
  | csrw r v => exact answers_ite (fun _ => answers_answer _ _) (answers_raise _ s)

/-- A command, legal or not, is answered once, with the value 0 unless the status is `OK`. -/
theorem MachineInv.runCommand_answers (inv : MachineInv s) (c : Command) :
    ∃ t r, runCommand c s = .next t ∧ t.responses = r :: s.responses ∧ t.inputs = s.inputs ∧
      (r.status ≠ .ok → r.val = 0) := by
  unfold runCommand
  split
  · next i _ =>
    obtain ⟨t, ht⟩ := inv.exec_answers i
    obtain ⟨r, hr, hv⟩ := exec_responses ht
    exact ⟨t, r, ht, hr, exec_inputs ht, hv⟩
  · exact ⟨_, ⟨.illegalCommand, 0⟩, rfl, rfl, rfl, fun _ => rfl⟩

theorem MachineInv.step_command (inv : MachineInv s) {c : Command} {rest : List HostEvent}
    (h : s.inputs = .command c :: rest) :
    ∃ t r, step s = .next t ∧ t.responses = r :: s.responses ∧ t.inputs = rest ∧
      (r.status ≠ .ok → r.val = 0) := by
  obtain ⟨t, r, ht, hr, hin, hv⟩ := inv.dropInput.runCommand_answers c
  refine ⟨t, r, ?_, hr, ?_, hv⟩
  · rw [step_of_event h]
    exact ht
  · rw [hin, dropInput_inputs, h, List.tail_cons]

theorem MachineInv.step_answers (inv : MachineInv s) : Answers (step s) := by
  cases h : s.inputs with
  | nil => exact ⟨s, step_of_idle h⟩
  | cons e rest =>
    cases e with
    | command c =>
      obtain ⟨t, -, ht, -⟩ := inv.step_command h
      exact ⟨t, ht⟩
    | reset strap => exact ⟨_, step_of_event h⟩
    | resetDuring c strap => exact ⟨_, step_of_event h⟩

end Answering

/-- Settles O55: each entry that a rule reads is there, so each rule ends in an answer or a failure. -/
theorem everyStepAnswers : Obligations.EveryStepAnswers :=
  fun _ inv => ⟨inv.step_answers, fun _ _ => inv.step_command⟩

/-! ### The parameter and the reset state -/

section Construction

variable {s : State} {n : Lane}

theorem exec_buildW_of_lt (h : n.toNat < s.maxLen.toNat) :
    exec (.buildW n) s = .next (respond .ok 0 (buildWide n.toNat s)) :=
  if_pos h

theorem exec_buildW_of_le (h : s.maxLen.toNat ≤ n.toNat) :
    exec (.buildW n) s = .next (replied .capacityExceeded 0 s) :=
  if_neg (Nat.not_lt.2 h)

theorem exec_buildN_of_lt (h : n.toNat < s.maxLen.toNat) :
    exec (.buildN n) s = .next (respond .ok 0 (buildNarrow n.toNat s)) :=
  if_pos h

theorem exec_buildN_of_le (h : s.maxLen.toNat ≤ n.toNat) :
    exec (.buildN n) s = .next (replied .capacityExceeded 0 s) :=
  if_neg (Nat.not_lt.2 h)

/-- States whose newest responses carry different statuses differ. -/
theorem respond_ok_ne_replied {u : State} {st : Status} {v : Lane} {m : Nat} (h : st ≠ .ok) :
    respond .ok v u ≠ replied st m s := by
  intro e
  have hr := congrArg State.responses e
  rw [respond_responses, replied_responses] at hr
  exact h (congrArg Response.status (List.cons.inj hr).1).symm

theorem exec_buildW_capacity_iff :
    exec (.buildW n) s = .next (replied .capacityExceeded 0 s) ↔ s.maxLen.toNat ≤ n.toNat := by
  refine ⟨fun h => ?_, exec_buildW_of_le⟩
  by_contra hn
  rw [exec_buildW_of_lt (Nat.not_le.1 hn)] at h
  exact respond_ok_ne_replied (by decide) (Host.Outcome.next.inj h)

theorem exec_buildN_capacity_iff :
    exec (.buildN n) s = .next (replied .capacityExceeded 0 s) ↔ s.maxLen.toNat ≤ n.toNat := by
  refine ⟨fun h => ?_, exec_buildN_of_le⟩
  by_contra hn
  rw [exec_buildN_of_lt (Nat.not_le.1 hn)] at h
  exact respond_ok_ne_replied (by decide) (Host.Outcome.next.inj h)

end Construction

theorem reset_maxLen : State.reset.maxLen.toNat = 1000000 := rfl

/-- Settles O57: no step writes the parameter, and both builds and both tables compare with it. -/
theorem maxLenIsOneConstantForBothSlices : Obligations.MaxLenIsOneConstantForBothSlices :=
  ⟨reset_maxLen, fun _ _ => step_maxLen, fun _ _ _ =>
    ⟨exec_buildW_capacity_iff, exec_buildN_capacity_iff, powWAt_isSome, powNAt_isSome⟩⟩

/-- Settles O10, by reading each field of the reset state. -/
theorem stateAfterReset : Obligations.StateAfterReset :=
  ⟨rfl, rfl, rfl, rfl, rfl, rfl, rfl, rfl, rfl, rfl, rfl, rfl, rfl, reset_maxLen⟩

end Sys2Proof
end

section
/-! SUPPORT. A slice that is initialised keeps its base and table, and so each slice holds the instance
of some sequence after every step. -/

namespace Sys2Proof

open Sys2Proof.Machine Sys2Proof.Laws

/-! ### Bases and tables -/

section Tables

variable {s t : State} {i : Instr}

/-- Once the wide base is derived no command changes it, its table or the flag (10_state.md R27, R35). -/
theorem exec_tableW_of_init (h : exec i s = .next t) (hs : s.initW = true) :
    t.initW = true ∧ t.baseW = s.baseW ∧ t.powW = s.powW := by
  cases effect_of_exec h with
  | initWide => simp [initWide_of_init hs, hs]
  | buildWide => simp [initWide_of_init hs]
  | _ => simp [hs]

/-- Once the narrow table is filled no command changes it or the flag (10_state.md R36). -/
theorem exec_tableN_of_init (h : exec i s = .next t) (hs : s.initN = true) :
    t.initN = true ∧ t.powN = s.powN := by
  cases effect_of_exec h with
  | initNarrow => simp [initNarrow_of_init hs, hs]
  | buildNarrow => simp [initNarrow_of_init hs]
  | _ => simp [hs]

end Tables

/-- Settles O51, by everything a command can do. -/
theorem basesAndTablesAreImmutable : Obligations.BasesAndTablesAreImmutable :=
  fun _ _ _ h => ⟨exec_tableW_of_init h, exec_tableN_of_init h⟩

/-! ### The wide instance -/

section Wide

variable {s t : State} {x : Nat → Nat}

/-- The instance is the one of a sequence by the length, the two arrays and the parameter alone, and the
base where the sequence is not empty. -/
theorem WideInstance.of_same (inst : WideInstance s x) (hn : t.nW = s.nW) (hpre : t.preW = s.preW)
    (hsuf : t.sufW = s.sufW) (hm : t.maxLen = s.maxLen)
    (hb : 0 < s.nW.toNat → t.baseW = s.baseW) : WideInstance t x where
  length_lt := by rw [hn, hm]; exact inst.length_lt
  pre_length := by rw [hn, hpre]; exact inst.pre_length
  suf_length := by rw [hn, hsuf]; exact inst.suf_length
  pre_first := by rw [preWAt_congr hpre]; exact inst.pre_first
  pre_next := fun k hk => by
    rw [hn] at hk
    rw [preWAt_congr hpre, preWAt_congr hpre, hb (by omega)]
    exact inst.pre_next k hk
  suf_last := by rw [hn, sufWAt_congr hsuf]; exact inst.suf_last
  suf_next := fun k hk => by
    rw [hn] at hk
    rw [sufWAt_congr hsuf, sufWAt_congr hsuf, hb (by omega)]
    exact inst.suf_next k hk

/-- `BUILD.W n` leaves the instance of `sym[0 .. n-1]` (41_rollhash_wide.md R141). -/
theorem wideInstance_buildWide {n : Nat} (hn : n < s.maxLen.toNat) :
    WideInstance (buildWide n s) (fun k => (symAt s k).toNat) where
  length_lt := by rwa [buildWide_nW hn, buildWide_maxLen]
  pre_length := by rw [buildWide_nW hn]; simp [buildWide_preW_eq]
  suf_length := by rw [buildWide_nW hn]; simp [buildWide_sufW_eq]
  pre_first := by rw [preWAt_buildWide, prefixAccs_first]
  pre_next := fun k hk => by
    rw [buildWide_nW hn] at hk
    rw [preWAt_buildWide, preWAt_buildWide, prefixAccs_next (by rwa [symbols_length]),
      symbols_getD hk, hashStepWide_eq_mod (symAt s k).isLt, buildWide_baseW]
  suf_last := by rw [buildWide_nW hn, sufWAt_buildWide_last]; rfl
  suf_next := fun k hk => by
    rw [buildWide_nW hn] at hk
    rw [sufWAt_buildWide, sufWAt_buildWide, suffixAccs_next (by rwa [symbols_length]),
      symbols_getD hk, hashStepWide_eq_mod (symAt s k).isLt, buildWide_baseW]

/-- A reset leaves the instance of the empty sequence (10_state.md R43). -/
theorem wideInstance_hostReset (strap : Lane) (h : 1 ≤ s.maxLen.toNat) (x : Nat → Nat) :
    WideInstance (hostReset strap s) x where
  length_lt := h
  pre_length := rfl
  suf_length := rfl
  pre_first := rfl
  pre_next := nofun
  suf_last := rfl
  suf_next := nofun

/-- After a command the wide instance is still the one of some sequence: `BUILD.W` replaces it whole, and
`INIT.W` derives a base only where the sequence is empty. -/
theorem WideInstance.exec (inst : WideInstance s x) (inv : WideInv s) {i : Instr}
    (h : exec i s = .next t) : ∃ y, WideInstance t y := by
  have hbase (hn : 0 < s.nW.toNat) : t.baseW = s.baseW := by
    obtain ⟨-, hb, -⟩ := exec_tableW_of_init h (inv.built_init hn)
    exact hb
  cases effect_of_exec h with
  | buildWide n _ hn =>
    exact ⟨_, (wideInstance_buildWide hn).of_same rfl rfl rfl rfl fun _ => rfl⟩
  | _ => exact ⟨x, inst.of_same (by simp) (by simp) (by simp) (by simp) hbase⟩

end Wide

/-! ### The narrow instance -/

section Narrow

variable {s t : State} {x : Nat → Nat}

/-- The instance is the one of a sequence by the length, the two arrays and the parameter alone. -/
theorem NarrowInstance.of_same (inst : NarrowInstance s x) (hn : t.nN = s.nN)
    (hpre : t.preN = s.preN) (hsuf : t.sufN = s.sufN) (hm : t.maxLen = s.maxLen) :
    NarrowInstance t x where
  length_lt := by rw [hn, hm]; exact inst.length_lt
  pre_length := by rw [hn, hpre]; exact inst.pre_length
  suf_length := by rw [hn, hsuf]; exact inst.suf_length
  pre_first := by rw [preNAt_congr hpre]; exact inst.pre_first
  pre_next := by simpa only [hn, preNAt_congr hpre] using inst.pre_next
  suf_last := by rw [hn, sufNAt_congr hsuf]; exact inst.suf_last
  suf_next := by simpa only [hn, sufNAt_congr hsuf] using inst.suf_next

/-- `BUILD.N n` leaves the instance of `sym[0 .. n-1]` (43_rollhash_narrow.md R176). -/
theorem narrowInstance_buildNarrow {n : Nat} (hn : n < s.maxLen.toNat) :
    NarrowInstance (buildNarrow n s) (fun k => (symAt s k).toNat) where
  length_lt := by rwa [buildNarrow_nN hn, buildNarrow_maxLen]
  pre_length := by rw [buildNarrow_nN hn]; simp [buildNarrow_preN_eq]
  suf_length := by rw [buildNarrow_nN hn]; simp [buildNarrow_sufN_eq]
  pre_first := by rw [preNAt_buildNarrow, prefixAccs_first]
  pre_next := fun k hk => by
    rw [buildNarrow_nN hn] at hk
    rw [preNAt_buildNarrow, preNAt_buildNarrow, prefixAccs_next (by rwa [symbols_length]),
      symbols_getD hk, hashStepNarrow_eq_mod]
  suf_last := by rw [buildNarrow_nN hn, sufNAt_buildNarrow_last]; rfl
  suf_next := fun k hk => by
    rw [buildNarrow_nN hn] at hk
    rw [sufNAt_buildNarrow, sufNAt_buildNarrow, suffixAccs_next (by rwa [symbols_length]),
      symbols_getD hk, hashStepNarrow_eq_mod]

/-- A reset leaves the instance of the empty sequence (10_state.md R43). -/
theorem narrowInstance_hostReset (strap : Lane) (h : 1 ≤ s.maxLen.toNat) (x : Nat → Nat) :
    NarrowInstance (hostReset strap s) x where
  length_lt := h
  pre_length := rfl
  suf_length := rfl
  pre_first := rfl
  pre_next := nofun
  suf_last := rfl
  suf_next := nofun

/-- After a command the narrow instance is still the one of some sequence: only `BUILD.N` replaces it. -/
theorem NarrowInstance.exec (inst : NarrowInstance s x) {i : Instr} (h : exec i s = .next t) :
    ∃ y, NarrowInstance t y := by
  cases effect_of_exec h with
  | buildNarrow n _ hn => exact ⟨_, (narrowInstance_buildNarrow hn).of_same rfl rfl rfl rfl⟩
  | _ => exact ⟨x, inst.of_same (by simp) (by simp) (by simp) (by simp)⟩

end Narrow

/-- Settles O56, by the four things a step can do: a command replaces an instance whole or leaves it, and
a reset leaves the instance of the empty sequence. -/
theorem everyStepKeepsTheInstances : Obligations.EveryStepKeepsTheInstances := by
  rintro s t inv ⟨x, wide⟩ ⟨y, narrow⟩ h
  have wide' : WideInstance (dropInput s) x := wide.of_same rfl rfl rfl rfl fun _ => rfl
  have narrow' : NarrowInstance (dropInput s) y := narrow.of_same rfl rfl rfl rfl
  cases stepEffect_of_step h with
  | hold => exact ⟨⟨x, wide⟩, ⟨y, narrow⟩⟩
  | reset strap =>
    exact ⟨⟨x, wideInstance_hostReset strap inv.dropInput.maxLen_pos x⟩,
      ⟨y, narrowInstance_hostReset strap inv.dropInput.maxLen_pos y⟩⟩
  | illegal =>
    exact ⟨⟨x, wide'.of_same rfl rfl rfl rfl fun _ => rfl⟩, ⟨y, narrow'.of_same rfl rfl rfl rfl⟩⟩
  | command hx => exact ⟨wide'.exec inv.dropInput.wide hx, narrow'.exec hx⟩

/-- Settles O53: the reset state is a reset with a positive parameter. -/
theorem invariantAtReset : Obligations.InvariantAtReset :=
  machineInv_resetWith Config.seedReset 0 (by decide)

end Sys2Proof
end

section
/-! SUPPORT. The words of `CSRR` and what it answers for each control register. -/

namespace Sys2Proof

open Sys2Proof.Machine Sys2Proof.Laws

theorem csrNumber_lt (r : Csr) : csrNumber r < 8 := by
  cases r <;> decide

/-- Each register has its word, whatever the lanes hold (30_encoding.md R93, R94). -/
theorem decode_csrr (r : Csr) (a b : Lane) :
    decode ⟨0x20000000 + BitVec.ofNat 32 (csrNumber r), a, b⟩ = .ok (.csrr r) := by
  have hop : bitField (0x20000000 + BitVec.ofNat 32 (csrNumber r)) 31 24 = 0x20 := by
    cases r <;> decide
  have hreserved : bitField (0x20000000 + BitVec.ofNat 32 (csrNumber r)) 23 8 = 0 := by
    cases r <;> decide
  have hnumber : bitField (0x20000000 + BitVec.ofNat 32 (csrNumber r)) 7 0 = csrNumber r := by
    cases r <;> decide
  rw [decode_opcode_20 hop]
  exact decodeFormatC_eq_ok.2 ⟨hreserved, r, hnumber, rfl⟩

/-- Format C refuses a word whose low 24 bits number none of the eight registers (30_encoding.md R93,
R101). -/
theorem decodeFormatC_error {w : Word} {k : Csr → Except DecodeError Instr}
    (h : 8 ≤ w.toNat % 2 ^ 24) : ∃ e, decodeFormatC w k = .error e := by
  cases hd : decodeFormatC w k with
  | error e => exact ⟨e, rfl⟩
  | ok i =>
    obtain ⟨hreserved, r, hnumber, -⟩ := decodeFormatC_eq_ok.1 hd
    have hr := csrNumber_lt r
    simp only [bitField] at hreserved hnumber
    omega

theorem decode_csrr_error {w : Word} (a b : Lane) (hlo : 0x20000008 ≤ w.toNat)
    (hhi : w.toNat ≤ 0x20FFFFFF) : ∃ e, decode ⟨w, a, b⟩ = .error e := by
  have hop : bitField w 31 24 = 0x20 := by
    simp only [bitField]
    omega
  rw [decode_opcode_20 hop]
  exact decodeFormatC_error (by omega)

/-! ### What `CSRR` answers -/

section Csrr

variable (s : State)

/-- `CSRR` answers the register's contents and changes nothing else (44_host_access.md R199). -/
theorem exec_csrr (r : Csr) : exec (.csrr r) s = .next (replied .ok (csrValue s r).toNat s) :=
  congrArg _ (respond_eq_replied _ _ s)

/-- The contents of a register narrower than the response are its number, zero-extended. -/
theorem exec_csrr_of_setWidth {w : Nat} (hw : w ≤ 64) {r : Csr} {v : BitVec w}
    (h : csrValue s r = v.setWidth 64) : exec (.csrr r) s = .next (replied .ok v.toNat s) := by
  rw [← answer_setWidth hw, ← h]
  rfl

theorem exec_csrr_status : exec (.csrr .status) s = .next (replied .ok
    ((if s.initW = true then 1 else 0) + (if s.initN = true then 2 else 0)) s) := by
  have hbits : s.initW.toNat + 2 * s.initN.toNat =
      (if s.initW = true then 1 else 0) + (if s.initN = true then 2 else 0) := by
    cases s.initW <;> cases s.initN <;> rfl
  rw [← hbits]
  rfl

theorem exec_csrr_baseW : exec (.csrr .baseW) s = .next (replied .ok s.baseW.toNat s) :=
  exec_csrr_of_setWidth s (by decide) rfl

/-- Before initialisation the wide base reads as 0 (10_state.md R27). -/
theorem exec_csrr_baseW_of_not_init (inv : MachineInv s) (h : s.initW = false) :
    exec (.csrr .baseW) s = .next (replied .ok 0 s) := by
  obtain ⟨hbase, -⟩ := inv.wide.before_init h
  rw [exec_csrr_baseW, hbase]
  rfl

theorem exec_csrr_baseN :
    exec (.csrr .baseN) s = .next (replied .ok Config.baseNValue.val s) := by
  rw [← baseN_toNat]
  exact exec_csrr_of_setWidth s (by decide) rfl

end Csrr

/-- Settles O43: each register by its word and its contents; every other word of the opcode is refused. -/
theorem readControlRegisterAnswers : Obligations.ReadControlRegisterAnswers := fun s a b =>
  ⟨⟨decode_csrr .id a b, exec_csrr s .id⟩,
    ⟨decode_csrr .status a b, exec_csrr_status s⟩,
    ⟨decode_csrr .seed a b, exec_csrr s .seed⟩,
    ⟨decode_csrr .baseW a b, exec_csrr_baseW s, exec_csrr_baseW_of_not_init s⟩,
    ⟨decode_csrr .baseN a b, exec_csrr_baseN s⟩,
    ⟨decode_csrr .lenW a b, exec_csrr_of_setWidth s (by decide) rfl⟩,
    ⟨decode_csrr .lenN a b, exec_csrr_of_setWidth s (by decide) rfl⟩,
    ⟨decode_csrr .maxLen a b, exec_csrr_of_setWidth s (by decide) rfl⟩,
    fun _ => decode_csrr_error a b⟩

end Sys2Proof
end

section
/-! SUPPORT. What a step makes of a pending legal command, and that the reading commands write
nothing. -/

namespace Sys2Proof

open Sys2Proof.Machine Sys2Proof.Laws

variable {s t : State} {i : Instr}

/-- A legal command runs as the instruction it decodes to (30_encoding.md R100). -/
theorem runCommand_of_decode {c : Command} (hc : decode c = .ok i) (s : State) :
    runCommand c s = exec i s := by
  simp [runCommand, hc]

/-- Taking the oldest pending event leaves the others. -/
theorem dropInput_of_inputs {e : HostEvent} {rest : List HostEvent} (h : s.inputs = e :: rest) :
    dropInput s = { s with inputs := rest } := by
  simp [dropInput, h]

/-- Each of the six writes belongs to a command that is not read-only, so a read-only command that
answers has answered alone. -/
theorem exec_eq_respond_of_readOnly (h : exec i s = .next t) (hi : i.readOnly = true) :
    ∃ st v, t = respond st v s := by
  cases effect_of_exec h with
  | answerOnly st v => exact ⟨st, v, rfl⟩
  | initWide e | initNarrow e | buildWide _ e | buildNarrow _ e | writeSym _ _ e | writeSeed _ e =>
    subst e
    cases hi

/-- Settles O49, since a response is all that a read-only command adds. -/
theorem readOnlyCommandsChangeNothing : Obligations.ReadOnlyCommandsChangeNothing := by
  intro i s t hi h
  obtain ⟨st, v, rfl⟩ := exec_eq_respond_of_readOnly h hi
  exact ⟨⟨st, v⟩, rfl⟩

/-- Settles O6: the step takes the event, and the command runs as what it decodes to. -/
theorem stepRunsTheDecodedInstruction : Obligations.StepRunsTheDecodedInstruction := by
  intro s c rest i hin hc
  calc step s = runCommand c (dropInput s) := step_of_event hin
    _ = exec i (dropInput s) := runCommand_of_decode hc _
    _ = exec i { s with inputs := rest } := by rw [dropInput_of_inputs hin]

end Sys2Proof
end

section
/-! SUPPORT. The opcode map as a relation between commands and instructions, and that the decoder is
exactly it: the proofs about decoding split its twenty rows and not the decoder's branches. -/

namespace Sys2Proof

open Sys2Proof.Machine Sys2Proof.Laws

/-- The opcode map of 30_encoding.md R94: which commands stand for which instruction. A lane that an
instruction does not carry is free. -/
inductive OpcodeMap : Command → Instr → Prop
  | mulW (a b : Lane) : OpcodeMap ⟨0x01000000, a, b⟩ (.mulW a b)
  | mulN (a b : Lane) : OpcodeMap ⟨0x01800000, a, b⟩ (.mulN a b)
  | initW (a b : Lane) : OpcodeMap ⟨0x02000000, a, b⟩ .initW
  | initN (a b : Lane) : OpcodeMap ⟨0x02800000, a, b⟩ .initN
  | buildW (a b : Lane) : OpcodeMap ⟨0x03000000, a, b⟩ (.buildW a)
  | buildN (a b : Lane) : OpcodeMap ⟨0x03800000, a, b⟩ (.buildN a)
  | gethW (a b : Lane) : OpcodeMap ⟨0x04000000, a, b⟩ (.gethW a b)
  | gethN (a b : Lane) : OpcodeMap ⟨0x04800000, a, b⟩ (.gethN a b)
  | revhW (a b : Lane) : OpcodeMap ⟨0x05000000, a, b⟩ (.revhW a b)
  | revhN (a b : Lane) : OpcodeMap ⟨0x05800000, a, b⟩ (.revhN a b)
  | rdpowW (a b : Lane) : OpcodeMap ⟨0x06000000, a, b⟩ (.rdpowW a)
  | rdpowN (a b : Lane) : OpcodeMap ⟨0x06800000, a, b⟩ (.rdpowN a)
  | rdpreW (a b : Lane) : OpcodeMap ⟨0x07000000, a, b⟩ (.rdpreW a)
  | rdpreN (a b : Lane) : OpcodeMap ⟨0x07800000, a, b⟩ (.rdpreN a)
  | rdsufW (a b : Lane) : OpcodeMap ⟨0x08000000, a, b⟩ (.rdsufW a)
  | rdsufN (a b : Lane) : OpcodeMap ⟨0x08800000, a, b⟩ (.rdsufN a)
  | wsym (a b : Lane) : OpcodeMap ⟨0x10000000, a, b⟩ (.wsym a b)
  | rsym (a b : Lane) : OpcodeMap ⟨0x11000000, a, b⟩ (.rsym a)
  | csrr (r : Csr) (a b : Lane) :
      OpcodeMap ⟨0x20000000 + BitVec.ofNat 32 (csrNumber r), a, b⟩ (.csrr r)
  | csrw (a b : Lane) : OpcodeMap ⟨0x21000002, a, b⟩ (.csrw .seed a)

/-! ### Every row of the map decodes to its instruction -/

section Formats

variable {w : Word} {x y : Instr}

theorem decodeFormatV_wide (h : bitField w 22 0 = 0 ∧ bitField w 23 23 = 0) :
    decodeFormatV w x y = .ok x :=
  decodeFormatV_eq_ok.2 ⟨h.1, .inl ⟨h.2, rfl⟩⟩

theorem decodeFormatV_narrow (h : bitField w 22 0 = 0 ∧ bitField w 23 23 ≠ 0) :
    decodeFormatV w x y = .ok y :=
  decodeFormatV_eq_ok.2 ⟨h.1, .inr ⟨h.2, rfl⟩⟩

theorem decodeFormatZ_ok (hreserved : bitField w 23 0 = 0) : decodeFormatZ w x = .ok x :=
  decodeFormatZ_eq_ok.2 ⟨hreserved, rfl⟩

end Formats

/-- The one legal word of `CSRW` (30_encoding.md R93, R100; 44_host_access.md R200). -/
theorem decode_csrw_seed (a b : Lane) : decode ⟨0x21000002, a, b⟩ = .ok (.csrw .seed a) :=
  (decode_opcode_21 (by decide)).trans
    (decodeFormatC_eq_ok.2 ⟨by decide, .seed, by decide, rfl⟩)

theorem OpcodeMap.decode_eq {c : Command} {i : Instr} (h : OpcodeMap c i) : decode c = .ok i := by
  cases h with
  | mulW => exact (decode_opcode_01 (by decide)).trans (decodeFormatV_wide (by decide))
  | mulN => exact (decode_opcode_01 (by decide)).trans (decodeFormatV_narrow (by decide))
  | initW => exact (decode_opcode_02 (by decide)).trans (decodeFormatV_wide (by decide))
  | initN => exact (decode_opcode_02 (by decide)).trans (decodeFormatV_narrow (by decide))
  | buildW => exact (decode_opcode_03 (by decide)).trans (decodeFormatV_wide (by decide))
  | buildN => exact (decode_opcode_03 (by decide)).trans (decodeFormatV_narrow (by decide))
  | gethW => exact (decode_opcode_04 (by decide)).trans (decodeFormatV_wide (by decide))
  | gethN => exact (decode_opcode_04 (by decide)).trans (decodeFormatV_narrow (by decide))
  | revhW => exact (decode_opcode_05 (by decide)).trans (decodeFormatV_wide (by decide))
  | revhN => exact (decode_opcode_05 (by decide)).trans (decodeFormatV_narrow (by decide))
  | rdpowW => exact (decode_opcode_06 (by decide)).trans (decodeFormatV_wide (by decide))
  | rdpowN => exact (decode_opcode_06 (by decide)).trans (decodeFormatV_narrow (by decide))
  | rdpreW => exact (decode_opcode_07 (by decide)).trans (decodeFormatV_wide (by decide))
  | rdpreN => exact (decode_opcode_07 (by decide)).trans (decodeFormatV_narrow (by decide))
  | rdsufW => exact (decode_opcode_08 (by decide)).trans (decodeFormatV_wide (by decide))
  | rdsufN => exact (decode_opcode_08 (by decide)).trans (decodeFormatV_narrow (by decide))
  | wsym => exact (decode_opcode_10 (by decide)).trans (decodeFormatZ_ok (by decide))
  | rsym => exact (decode_opcode_11 (by decide)).trans (decodeFormatZ_ok (by decide))
  | csrr r a b => exact decode_csrr r a b
  | csrw a b => exact decode_csrw_seed a b

/-! ### Whatever decodes is a row of the map -/

section Inversion

variable {w : Word} {a b : Lane} {i x y : Instr} {opcode : Nat}

/-- Format V accepts two words of an opcode, one for each slice. -/
theorem OpcodeMap.of_formatV (hop : bitField w 31 24 = opcode) (h : decodeFormatV w x y = .ok i)
    (hwide : OpcodeMap ⟨BitVec.ofNat 32 (opcode * 2 ^ 24), a, b⟩ x)
    (hnarrow : OpcodeMap ⟨BitVec.ofNat 32 (opcode * 2 ^ 24 + 2 ^ 23), a, b⟩ y) :
    OpcodeMap ⟨w, a, b⟩ i := by
  obtain ⟨hreserved, ⟨hslice, rfl⟩ | ⟨hslice, rfl⟩⟩ := decodeFormatV_eq_ok.1 h
  · have hw : w = BitVec.ofNat 32 (opcode * 2 ^ 24) := by
      apply BitVec.eq_of_toNat_eq
      simp only [bitField, BitVec.toNat_ofNat] at *
      omega
    exact hw ▸ hwide
  · have hw : w = BitVec.ofNat 32 (opcode * 2 ^ 24 + 2 ^ 23) := by
      apply BitVec.eq_of_toNat_eq
      simp only [bitField, BitVec.toNat_ofNat] at *
      omega
    exact hw ▸ hnarrow

/-- Format Z accepts one word of an opcode. -/
theorem OpcodeMap.of_formatZ (hop : bitField w 31 24 = opcode) (h : decodeFormatZ w x = .ok i)
    (hx : OpcodeMap ⟨BitVec.ofNat 32 (opcode * 2 ^ 24), a, b⟩ x) : OpcodeMap ⟨w, a, b⟩ i := by
  obtain ⟨hreserved, rfl⟩ := decodeFormatZ_eq_ok.1 h
  have hw : w = BitVec.ofNat 32 (opcode * 2 ^ 24) := by
    apply BitVec.eq_of_toNat_eq
    simp only [bitField, BitVec.toNat_ofNat] at *
    omega
  exact hw ▸ hx

/-- Format C accepts, of an opcode, the word of each register that its continuation accepts. -/
theorem word_of_decodeFormatC {k : Csr → Except DecodeError Instr}
    (hop : bitField w 31 24 = opcode) (h : decodeFormatC w k = .ok i) :
    ∃ r, w = BitVec.ofNat 32 (opcode * 2 ^ 24 + csrNumber r) ∧ k r = .ok i := by
  obtain ⟨hreserved, r, hnumber, hk⟩ := decodeFormatC_eq_ok.1 h
  refine ⟨r, BitVec.eq_of_toNat_eq ?_, hk⟩
  simp only [bitField, BitVec.toNat_ofNat] at *
  omega

end Inversion

theorem opcodeMap_of_decode {c : Command} {i : Instr} (h : decode c = .ok i) : OpcodeMap c i := by
  obtain ⟨w, a, b⟩ := c
  unfold decode at h
  split at h
  next hop => exact .of_formatV hop h (.mulW a b) (.mulN a b)
  next hop => exact .of_formatV hop h (.initW a b) (.initN a b)
  next hop => exact .of_formatV hop h (.buildW a b) (.buildN a b)
  next hop => exact .of_formatV hop h (.gethW a b) (.gethN a b)
  next hop => exact .of_formatV hop h (.revhW a b) (.revhN a b)
  next hop => exact .of_formatV hop h (.rdpowW a b) (.rdpowN a b)
  next hop => exact .of_formatV hop h (.rdpreW a b) (.rdpreN a b)
  next hop => exact .of_formatV hop h (.rdsufW a b) (.rdsufN a b)
  next hop => exact .of_formatZ hop h (.wsym a b)
  next hop => exact .of_formatZ hop h (.rsym a b)
  next hop =>
    obtain ⟨r, rfl, hr⟩ := word_of_decodeFormatC hop h
    cases hr
    rw [BitVec.ofNat_add]
    exact .csrr r a b
  next hop =>
    obtain ⟨r, rfl, hr⟩ := word_of_decodeFormatC hop h
    obtain ⟨rfl, rfl⟩ := decodeCsrw_eq_ok.1 hr
    exact .csrw a b
  next => cases h

/-- The decoder is the opcode map. -/
theorem decode_eq_ok_iff {c : Command} {i : Instr} : decode c = .ok i ↔ OpcodeMap c i :=
  ⟨opcodeMap_of_decode, OpcodeMap.decode_eq⟩

/-! ### The encoder gives rows of the map -/

theorem opcodeMap_encode {i : Instr} (h : i.wellFormed = true) : OpcodeMap (encode i) i := by
  cases i with
  | mulW a b => exact .mulW a b
  | mulN a b => exact .mulN a b
  | initW => exact .initW 0 0
  | initN => exact .initN 0 0
  | buildW n => exact .buildW n 0
  | buildN n => exact .buildN n 0
  | gethW l r => exact .gethW l r
  | gethN l r => exact .gethN l r
  | revhW l r => exact .revhW l r
  | revhN l r => exact .revhN l r
  | rdpowW k => exact .rdpowW k 0
  | rdpowN k => exact .rdpowN k 0
  | rdpreW k => exact .rdpreW k 0
  | rdpreN k => exact .rdpreN k 0
  | rdsufW k => exact .rdsufW k 0
  | rdsufN k => exact .rdsufN k 0
  | wsym k v => exact .wsym k v
  | rsym k => exact .rsym k 0
  | csrr r =>
    rw [encode, BitVec.ofNat_add]
    exact .csrr r 0 0
  | csrw r v =>
    obtain rfl := writable_iff.1 h
    exact .csrw v 0

/-- Settles O2: the encoder gives a row of the opcode map, and every row decodes. -/
theorem decodeOfEncode : Obligations.DecodeOfEncode :=
  fun _ h => (opcodeMap_encode h).decode_eq

/-- Settles O3, row by row of the opcode map. -/
theorem encodeOfDecode : Obligations.EncodeOfDecode := by
  intro c i h
  cases opcodeMap_of_decode h with
  | csrr r a b => exact ⟨rfl, BitVec.ofNat_add .., nofun, nofun⟩
  | _ => simp [Instr.wellFormed, Csr.writable, encode, csrNumber, Instr.lanesRead]

/-! ### The lanes and the word of a row -/

section Rows

variable {c : Command} {i : Instr}

/-- The lane `op1` is free in a row whose instruction does not read it (30_encoding.md R95). -/
theorem OpcodeMap.with_op1 (h : OpcodeMap c i) (hread : i.lanesRead.1 = false) (x : Lane) :
    OpcodeMap { c with op1 := x } i := by
  cases h with
  | initW _ b => exact .initW x b
  | initN _ b => exact .initN x b
  | csrr r _ b => exact .csrr r x b
  | _ => cases hread

/-- The lane `op2` is free in a row whose instruction does not read it (30_encoding.md R95). -/
theorem OpcodeMap.with_op2 (h : OpcodeMap c i) (hread : i.lanesRead.2 = false) (x : Lane) :
    OpcodeMap { c with op2 := x } i := by
  cases h with
  | initW a _ => exact .initW a x
  | initN a _ => exact .initN a x
  | buildW a _ => exact .buildW a x
  | buildN a _ => exact .buildN a x
  | rdpowW a _ => exact .rdpowW a x
  | rdpowN a _ => exact .rdpowN a x
  | rdpreW a _ => exact .rdpreW a x
  | rdpreN a _ => exact .rdpreN a x
  | rdsufW a _ => exact .rdsufW a x
  | rdsufN a _ => exact .rdsufN a x
  | rsym a _ => exact .rsym a x
  | csrr r a _ => exact .csrr r a x
  | csrw a _ => exact .csrw a x
  | mulW | mulN | gethW | gethN | revhW | revhN | wsym => cases hread

/-- The words of the rows are legal words (30_encoding.md R100). -/
theorem OpcodeMap.word_mem (h : OpcodeMap c i) : c.word ∈ legalWords := by
  cases h with
  | csrr r => cases r <;> simp [legalWords, csrNumber]
  | _ => simp [legalWords]

end Rows

/-- Settles O4: in a row of the opcode map a lane that the instruction does not read is free. -/
theorem unreadLanesAreIgnored : Obligations.UnreadLanesAreIgnored := fun _ _ x h =>
  have row := opcodeMap_of_decode h
  ⟨fun hread => (row.with_op1 hread x).decode_eq, fun hread => (row.with_op2 hread x).decode_eq⟩

/-! ### Words of no row -/

/-- A command whose word is not legal is answered `ILLEGAL_COMMAND` (30_encoding.md R100). -/
theorem runCommand_of_illegal {c : Command} (h : c.word ∉ legalWords) (s : State) :
    runCommand c s = .next (replied .illegalCommand 0 s) := by
  cases hc : decode c with
  | ok i => exact absurd (opcodeMap_of_decode hc).word_mem h
  | error e => simp only [runCommand, hc, raiseStatus_eq]

theorem step_of_illegal {c : Command} {rest : List HostEvent} {s : State} (h : c.word ∉ legalWords)
    (hin : s.inputs = .command c :: rest) :
    step s = .next (replied .illegalCommand 0 { s with inputs := rest }) := by
  rw [step_of_event hin, dropInput_of_inputs hin]
  exact runCommand_of_illegal h _

/-- Settles O1: each word form is a row of the opcode map, and a word of no row is refused. -/
theorem decodeIsTotalOnAllWords : Obligations.DecodeIsTotalOnAllWords := by
  refine ⟨fun a b => ?_, by decide, by decide, fun _ _ _ => step_of_illegal⟩
  simp only [decode_eq_ok_iff]
  exact ⟨.mulW a b, .mulN a b, .initW a b, .initN a b, .buildW a b, .buildN a b, .gethW a b,
    .gethN a b, .revhW a b, .revhN a b, .rdpowW a b, .rdpowN a b, .rdpreW a b, .rdpreN a b,
    .rdsufW a b, .rdsufN a b, .wsym a b, .rsym a b, fun r => .csrr r a b, .csrw a b⟩

/-- Settles O5: the legal words are rows of the opcode map, the other two are evaluated. -/
theorem wordsOfTheOpcodeMap : Obligations.WordsOfTheOpcodeMap :=
  ⟨(OpcodeMap.mulW 5 7).decode_eq, (OpcodeMap.rdpowN 4 9).decode_eq,
    (OpcodeMap.revhN 1 3).decode_eq, (OpcodeMap.wsym 0 114).decode_eq,
    (OpcodeMap.csrr .lenW 0 0).decode_eq, (OpcodeMap.csrw 6 0).decode_eq, by decide, by decide⟩

end Sys2Proof
end

section
/-! SUPPORT. What the expansion of `BUILDSEQ` does (30_encoding.md R110): its writes leave the sequence in
the symbol buffer, and the final `BUILD` reads them from there. -/

namespace Sys2Proof

open Sys2Proof.Machine Sys2Proof.Laws

variable {s t u : State}

/-! ### Commands one after another -/

theorem execAll_cons_eq_next {i : Instr} {is : List Instr} :
    execAll (i :: is) s = .next u ↔ ∃ t, exec i s = .next t ∧ execAll is t = .next u := by
  cases h : exec i s <;> simp [execAll, h]

theorem execAll_concat {i : Instr} {is : List Instr} (h : execAll is s = .next t)
    (hi : exec i t = .next u) : execAll (is ++ [i]) s = .next u := by
  induction is generalizing s with
  | nil =>
    cases h
    exact execAll_cons_eq_next.2 ⟨u, hi, rfl⟩
  | cons j is ih =>
    obtain ⟨v, hj, hrest⟩ := execAll_cons_eq_next.1 h
    exact execAll_cons_eq_next.2 ⟨v, hj, ih hrest⟩

/-! ### The writes -/

/-- A number below `MAXLEN` fits an operand lane (00_scope.md R9). -/
theorem toNat_lane_of_lt_maxLen {n : Nat} (h : n < s.maxLen.toNat) :
    (BitVec.ofNat 64 n).toNat = n := by
  have hmax := s.maxLen.isLt
  rw [BitVec.toNat_ofNat, Nat.mod_eq_of_lt (by omega)]

/-- `WSYM` of a symbol inside the buffer writes it (44_host_access.md R196). -/
theorem exec_wsym_of_lt {k v : Lane} (hv : v.toNat < 2 ^ 32) (hk : k.toNat < s.maxLen.toNat) :
    exec (.wsym k v) s = .next (respond .ok 0 (writeSym k.toNat (v.setWidth 32) s)) :=
  (if_neg (not_not.2 hv)).trans (if_pos hk)

/-- The buffer of `t` holds `xs` from index `k` on, and below `k` what it held in `s`. -/
structure SymbolsWritten (k : Nat) (xs : List Lane) (s t : State) : Prop where
  maxLen : t.maxLen = s.maxLen
  below : ∀ j < k, symAt t j = symAt s j
  written : ∀ j < xs.length, (symAt t (k + j)).toNat = (xs.getD j 0).toNat

/-- A symbol written at `k` and a sequence written after it are the longer sequence written at `k`. -/
theorem SymbolsWritten.cons {k : Nat} {x : Lane} {xs : List Lane} (hx : x.toNat < 2 ^ 32)
    (h : SymbolsWritten (k + 1) xs (respond .ok 0 (writeSym k (x.setWidth 32) s)) t) :
    SymbolsWritten k (x :: xs) s t where
  maxLen := h.maxLen
  below := fun j hj => (h.below j (by omega)).trans (symAt_writeSym_other (by omega) _ s)
  written
    | 0, _ => by
      have hk : symAt t k = x.setWidth 32 :=
        (h.below k k.lt_succ_self).trans (symAt_writeSym_same k _ s)
      simpa [hk] using hx
    | j + 1, hj => by
      have hj' := h.written j (by simpa using hj)
      rwa [Nat.add_right_comm] at hj'

/-- The writes of the expansion answer and leave the sequence in the buffer. -/
theorem execAll_writeSeqFrom {k : Nat} {xs : List Lane} (hlen : k + xs.length ≤ s.maxLen.toNat)
    (hxs : ∀ x ∈ xs, x.toNat < 2 ^ 32) :
    ∃ t, execAll (writeSeqFrom k xs) s = .next t ∧ SymbolsWritten k xs s t := by
  induction xs generalizing k s with
  | nil => exact ⟨s, rfl, rfl, fun _ _ => rfl, nofun⟩
  | cons x xs ih =>
    obtain ⟨hx, hxs⟩ := List.forall_mem_cons.1 hxs
    rw [List.length_cons] at hlen
    have hk : (BitVec.ofNat 64 k).toNat = k := toNat_lane_of_lt_maxLen (s := s) (by omega)
    have hexec := exec_wsym_of_lt (s := s) (k := BitVec.ofNat 64 k) hx (by omega)
    rw [hk] at hexec
    obtain ⟨t, ht, hw⟩ := ih (k := k + 1)
      (s := respond .ok 0 (writeSym k (x.setWidth 32) s)) (by simp; omega) hxs
    exact ⟨t, execAll_cons_eq_next.2 ⟨_, hexec, ht⟩, hw.cons hx⟩

/-! ### The constructions -/

/-- The instance depends on the symbols of the sequence below its length alone. -/
theorem WideInstance.congr {x y : Nat → Nat} (inst : WideInstance s x)
    (h : ∀ k < s.nW.toNat, x k = y k) : WideInstance s y :=
  { inst with
    pre_next := fun k hk => h k hk ▸ inst.pre_next k hk
    suf_next := fun k hk => h k hk ▸ inst.suf_next k hk }

theorem NarrowInstance.congr {x y : Nat → Nat} (inst : NarrowInstance s x)
    (h : ∀ k < s.nN.toNat, x k = y k) : NarrowInstance s y :=
  { inst with
    pre_next := fun k hk => h k hk ▸ inst.pre_next k hk
    suf_next := fun k hk => h k hk ▸ inst.suf_next k hk }

section Sequence

variable {xs : List Lane}

/-- `BUILD.W` after the writes constructs the instance of the sequence. -/
theorem SymbolsWritten.wideInstance (h : SymbolsWritten 0 xs s t)
    (hlen : xs.length < t.maxLen.toNat) :
    WideInstance (buildWide xs.length t) (fun k => (xs.getD k 0).toNat) := by
  refine (wideInstance_buildWide hlen).congr fun k hk => ?_
  rw [buildWide_nW hlen] at hk
  simpa only [Nat.zero_add] using h.written k hk

/-- `BUILD.N` after the writes constructs the instance of the sequence. -/
theorem SymbolsWritten.narrowInstance (h : SymbolsWritten 0 xs s t)
    (hlen : xs.length < t.maxLen.toNat) :
    NarrowInstance (buildNarrow xs.length t) (fun k => (xs.getD k 0).toNat) := by
  refine (narrowInstance_buildNarrow hlen).congr fun k hk => ?_
  rw [buildNarrow_nN hlen] at hk
  simpa only [Nat.zero_add] using h.written k hk

end Sequence

/-- Settles O26: the writes put the sequence into the buffer, and the `BUILD` constructs from there. -/
theorem buildSequenceConstructs : Obligations.BuildSequenceConstructs := by
  intro s xs hlen hxs
  obtain ⟨t, ht, hw⟩ := execAll_writeSeqFrom (s := s) (k := 0) (by omega) hxs
  rw [← hw.maxLen] at hlen
  have hn := toNat_lane_of_lt_maxLen hlen
  have hbuildW := exec_buildW_of_lt (hn.symm ▸ hlen)
  have hbuildN := exec_buildN_of_lt (hn.symm ▸ hlen)
  rw [hn] at hbuildW hbuildN
  exact ⟨⟨_, execAll_concat ht hbuildW, buildWide_nW hlen,
      (hw.wideInstance hlen).of_same rfl rfl rfl rfl fun _ => rfl⟩,
    ⟨_, execAll_concat ht hbuildN, buildNarrow_nN hlen,
      (hw.narrowInstance hlen).of_same rfl rfl rfl rfl⟩⟩

end Sys2Proof
end

section
/-! SUPPORT. The 64-bit datapath of the wide multiplier (40_modmul_wide.md R122) as arithmetic on numbers:
its partial products and its biased sum do not wrap, the biased sum is the product plus the bias modulo
`2^61 - 1`, and a pass reduces by `2^61 - 1` without leaving the residues' range. -/

namespace Sys2Proof

open Sys2Proof.Machine Sys2Proof.Laws

section Masks

variable {x mask : Lane}

/-- Masking with the low `k` bits is a remainder. -/
theorem toNat_and_lowMask {k : Nat} (hmask : mask.toNat = 2 ^ k - 1) :
    (x &&& mask).toNat = x.toNat % 2 ^ k := by
  rw [BitVec.toNat_and, hmask, Nat.and_two_pow_sub_one_eq_mod]

theorem toNat_and_lowHalf (x : Lane) : (x &&& 0xFFFFFFFF).toNat = x.toNat % 2 ^ 32 :=
  toNat_and_lowMask (by decide)

theorem toNat_and_maskW (x : Lane) : (x &&& maskW).toNat = x.toNat % 2 ^ 61 :=
  toNat_and_lowMask (by decide)

theorem toNat_shiftRight (k : Nat) : (x >>> k).toNat = x.toNat / 2 ^ k := by
  rw [BitVec.toNat_ushiftRight, Nat.shiftRight_eq_div_pow]

/-- A left shift that loses no bit is a multiplication. -/
theorem toNat_shiftLeft_of_lt {k : Nat} (h : x.toNat * 2 ^ k < 2 ^ 64) :
    (x <<< k).toNat = x.toNat * 2 ^ k := by
  rw [BitVec.toNat_shiftLeft, Nat.shiftLeft_eq, Nat.mod_eq_of_lt h]

end Masks

/-! ### The partial products and the biased sum -/

section Datapath

variable {a b : Lane}

/-- The high half of a wide field element has 29 bits. -/
theorem high_half_le (ha : a.toNat < 2 ^ 61 - 1) : a.toNat / 2 ^ 32 ≤ 2 ^ 29 - 1 := by omega

/-- The low half of a number has 32 bits. -/
theorem low_half_le (n : Nat) : n % 2 ^ 32 ≤ 2 ^ 32 - 1 := by omega

theorem crossTerms_lt (ha : a.toNat < 2 ^ 61 - 1) (hb : b.toNat < 2 ^ 61 - 1) :
    (a.toNat % 2 ^ 32) * (b.toNat / 2 ^ 32) + (b.toNat % 2 ^ 32) * (a.toNat / 2 ^ 32) < 2 ^ 62 := by
  have hab := Nat.mul_le_mul (low_half_le a.toNat) (high_half_le hb)
  have hba := Nat.mul_le_mul (low_half_le b.toNat) (high_half_le ha)
  omega

theorem partialProducts_low :
    (partialProducts a b).1.toNat = (a.toNat % 2 ^ 32) * (b.toNat % 2 ^ 32) := by
  have hbound := Nat.mul_le_mul (low_half_le a.toNat) (low_half_le b.toNat)
  simp only [partialProducts, BitVec.toNat_mul, toNat_and_lowHalf]
  exact Nat.mod_eq_of_lt (by omega)

theorem partialProducts_middle (ha : a.toNat < 2 ^ 61 - 1) (hb : b.toNat < 2 ^ 61 - 1) :
    (partialProducts a b).2.1.toNat =
      (a.toNat % 2 ^ 32) * (b.toNat / 2 ^ 32) + (b.toNat % 2 ^ 32) * (a.toNat / 2 ^ 32) := by
  simp only [partialProducts, BitVec.toNat_add, BitVec.toNat_mul, toNat_shiftRight, toNat_and_lowHalf,
    ← Nat.add_mod]
  exact Nat.mod_eq_of_lt ((crossTerms_lt ha hb).trans (by decide))

theorem partialProducts_high (ha : a.toNat < 2 ^ 61 - 1) (hb : b.toNat < 2 ^ 61 - 1) :
    (partialProducts a b).2.2.toNat = (a.toNat / 2 ^ 32) * (b.toNat / 2 ^ 32) := by
  have hbound := Nat.mul_le_mul (high_half_le ha) (high_half_le hb)
  simp only [partialProducts, BitVec.toNat_mul, toNat_shiftRight]
  exact Nat.mod_eq_of_lt (by omega)

theorem partialProducts_middle_lt (ha : a.toNat < 2 ^ 61 - 1) (hb : b.toNat < 2 ^ 61 - 1) :
    (partialProducts a b).2.1.toNat < 2 ^ 62 := by
  rw [partialProducts_middle ha hb]
  exact crossTerms_lt ha hb

theorem partialProducts_high_le (ha : a.toNat < 2 ^ 61 - 1) (hb : b.toNat < 2 ^ 61 - 1) :
    (partialProducts a b).2.2.toNat ≤ (2 ^ 29 - 1) * (2 ^ 29 - 1) := by
  rw [partialProducts_high ha hb]
  exact Nat.mul_le_mul (high_half_le ha) (high_half_le hb)

/-- The partial products are the product in base `2^32`. -/
theorem partialProducts_sum (ha : a.toNat < 2 ^ 61 - 1) (hb : b.toNat < 2 ^ 61 - 1) :
    (partialProducts a b).1.toNat + 2 ^ 32 * (partialProducts a b).2.1.toNat
      + 2 ^ 64 * (partialProducts a b).2.2.toNat = a.toNat * b.toNat := by
  rw [partialProducts_low, partialProducts_middle ha hb, partialProducts_high ha hb]
  conv_rhs => rw [← Nat.mod_add_div a.toNat (2 ^ 32), ← Nat.mod_add_div b.toNat (2 ^ 32)]
  ring

/-- Terms within the bounds of the partial products fold to a sum far below `2^64`. -/
theorem foldedTerms_lt {l m h : Nat} (hl : l < 2 ^ 64) (hm : m < 2 ^ 62)
    (hh : h ≤ (2 ^ 29 - 1) * (2 ^ 29 - 1)) :
    l % 2 ^ 61 + l / 2 ^ 61 + m % 2 ^ 29 * 2 ^ 32 + m / 2 ^ 29 + 8 * h + 1 < 3 * (2 ^ 61 - 1) := by
  omega

/-- No addition of the biased sum wraps. -/
theorem biasedSum_toNat (ha : a.toNat < 2 ^ 61 - 1) (hb : b.toNat < 2 ^ 61 - 1) :
    (biasedSum a b).toNat =
      (partialProducts a b).1.toNat % 2 ^ 61 + (partialProducts a b).1.toNat / 2 ^ 61 +
      (partialProducts a b).2.1.toNat % 2 ^ 29 * 2 ^ 32 + (partialProducts a b).2.1.toNat / 2 ^ 29 +
      8 * (partialProducts a b).2.2.toNat + 1 := by
  have hh := partialProducts_high_le ha hb
  have hsum := foldedTerms_lt (partialProducts a b).1.isLt (partialProducts_middle_lt ha hb) hh
  have hmid : ((partialProducts a b).2.1 &&& 0x1FFFFFFF).toNat =
      (partialProducts a b).2.1.toNat % 2 ^ 29 := toNat_and_lowMask (by decide)
  have hmidShift := toNat_shiftLeft_of_lt (x := (partialProducts a b).2.1 &&& 0x1FFFFFFF) (k := 32)
    (by omega)
  have hhighShift := toNat_shiftLeft_of_lt (x := (partialProducts a b).2.2) (k := 3) (by omega)
  have hbias : (1 : Lane).toNat = 1 := rfl
  simp only [biasedSum, BitVec.toNat_add, toNat_shiftRight, hmidShift, hhighShift, hmid, hbias,
    toNat_and_maskW, Nat.mod_add_mod]
  rw [Nat.mul_comm _ (2 ^ 3)]
  exact Nat.mod_eq_of_lt (hsum.trans (by decide))

theorem biasedSum_lt (ha : a.toNat < 2 ^ 61 - 1) (hb : b.toNat < 2 ^ 61 - 1) :
    (biasedSum a b).toNat < 3 * (2 ^ 61 - 1) := by
  rw [biasedSum_toNat ha hb]
  exact foldedTerms_lt (partialProducts a b).1.isLt (partialProducts_middle_lt ha hb)
    (partialProducts_high_le ha hb)

theorem biasedSum_pos (ha : a.toNat < 2 ^ 61 - 1) (hb : b.toNat < 2 ^ 61 - 1) :
    0 < (biasedSum a b).toNat := by
  rw [biasedSum_toNat ha hb]
  exact Nat.succ_pos _

/-- Folding the partial products at bit 61 keeps the residue: the biased sum is the product plus the bias,
less multiples of `2^61 - 1`. -/
theorem biasedSum_mod (ha : a.toNat < 2 ^ 61 - 1) (hb : b.toNat < 2 ^ 61 - 1) :
    (biasedSum a b).toNat % (2 ^ 61 - 1) = (a.toNat * b.toNat + 1) % (2 ^ 61 - 1) := by
  have hsum := biasedSum_toNat ha hb
  have hproduct := partialProducts_sum ha hb
  have hfold : (biasedSum a b).toNat + (2 ^ 61 - 1) * ((partialProducts a b).1.toNat / 2 ^ 61 +
      (partialProducts a b).2.1.toNat / 2 ^ 29 + 8 * (partialProducts a b).2.2.toNat) =
      a.toNat * b.toNat + 1 := by omega
  rw [← hfold]
  exact (Nat.add_mul_mod_self_left ..).symm

end Datapath

/-! ### The passes -/

section Passes

variable {x : Lane}

theorem foldPass_toNat (x : Lane) : (foldPass x).toNat = x.toNat % 2 ^ 61 + x.toNat / 2 ^ 61 := by
  have hx := x.isLt
  simp only [foldPass, BitVec.toNat_add, toNat_shiftRight, toNat_and_maskW]
  omega

/-- A pass leaves every accumulator below `2^61` as it is. -/
theorem foldPass_of_lt (hx : x.toNat < 2 ^ 61) : foldPass x = x := by
  apply BitVec.eq_of_toNat_eq
  rw [foldPass_toNat]
  omega

theorem foldPass_mod (x : Lane) : (foldPass x).toNat % (2 ^ 61 - 1) = x.toNat % (2 ^ 61 - 1) := by
  rw [foldPass_toNat]
  omega

theorem foldPass_pos (hx : 0 < x.toNat) : 0 < (foldPass x).toNat := by
  rw [foldPass_toNat]
  omega

/-- One pass brings an accumulator below `3 * (2^61 - 1)` to at most `2^61`. -/
theorem foldPass_le (hx : x.toNat < 3 * (2 ^ 61 - 1)) : (foldPass x).toNat ≤ 2 ^ 61 := by
  rw [foldPass_toNat]
  omega

/-- Two passes bring such an accumulator to at most `2^61 - 1`. -/
theorem foldPass_foldPass_le (hx : x.toNat < 3 * (2 ^ 61 - 1)) :
    (foldPass (foldPass x)).toNat ≤ 2 ^ 61 - 1 := by
  have hfirst := foldPass_le hx
  rw [foldPass_toNat]
  omega

/-- The one accumulator below `3 * (2^61 - 1)` that a pass does not bring below `2^61` has the residue of
the bias. -/
theorem eq_of_foldPass_eq (hx : x.toNat < 3 * (2 ^ 61 - 1)) (h : (foldPass x).toNat = 2 ^ 61) :
    x.toNat = 2 * (2 ^ 61 - 1) + 1 := by
  rw [foldPass_toNat] at h
  omega

end Passes

/-- `2^61 - 1` is a Mersenne prime (40_modmul_wide.md R122). -/
theorem prime_wideModulus : Nat.Prime (2 ^ 61 - 1) :=
  lucas_lehmer_sufficiency 61 (by decide) (by norm_num)

/-! ### The obligations on the datapath -/

section Products

variable {a b : Lane}

/-- Only a zero operand gives a biased sum with the residue of the bias, and then the sum is the bias. -/
theorem biasedSum_eq_one_of_dvd (ha : a.toNat < 2 ^ 61 - 1) (hb : b.toNat < 2 ^ 61 - 1)
    (h : 2 ^ 61 - 1 ∣ a.toNat * b.toNat) : (biasedSum a b).toNat = 1 := by
  have hzero : a.toNat * b.toNat = 0 := by
    rcases (Nat.Prime.dvd_mul prime_wideModulus).1 h with h | h
    · rw [Nat.eq_zero_of_dvd_of_lt h ha, Nat.zero_mul]
    · rw [Nat.eq_zero_of_dvd_of_lt h hb, Nat.mul_zero]
  have hsum := partialProducts_sum ha hb
  rw [biasedSum_toNat ha hb]
  omega

/-- The first pass already brings the biased sum of field elements below `2^61`. -/
theorem foldPass_biasedSum_lt (ha : a.toNat < 2 ^ 61 - 1) (hb : b.toNat < 2 ^ 61 - 1) :
    (foldPass (biasedSum a b)).toNat < 2 ^ 61 := by
  refine lt_of_le_of_ne (foldPass_le (biasedSum_lt ha hb)) fun htop => ?_
  have hsum := eq_of_foldPass_eq (biasedSum_lt ha hb) htop
  have hmod := biasedSum_mod ha hb
  have hone := biasedSum_eq_one_of_dvd ha hb (by omega)
  omega

end Products

/-- Settles O15: the accumulator after one pass lies below `2^61`, where a pass is the identity. -/
theorem secondPassChangesNothing : Obligations.SecondPassChangesNothing := fun _ _ ha hb =>
  foldPass_of_lt (foldPass_biasedSum_lt ha hb)

/-- Settles O14, by the bounds of the partial products. -/
theorem datapathNeverWraps : Obligations.DatapathNeverWraps := fun _ _ ha hb =>
  ⟨partialProducts_low, partialProducts_middle ha hb, partialProducts_high ha hb,
    biasedSum_toNat ha hb, biasedSum_lt ha hb⟩

/-- Settles O13: the accumulator after both passes is the product plus the bias, in the range where taking
the bias away leaves the remainder. -/
theorem datapathComputesTheWideProduct : Obligations.DatapathComputesTheWideProduct := by
  intro a b ha hb
  have hle := foldPass_foldPass_le (biasedSum_lt ha hb)
  have hpos := foldPass_pos (foldPass_pos (biasedSum_pos ha hb))
  have hmod : (foldPass (foldPass (biasedSum a b))).toNat % (2 ^ 61 - 1) =
      (a.toNat * b.toNat + 1) % (2 ^ 61 - 1) := by
    rw [foldPass_mod, foldPass_mod, biasedSum_mod ha hb]
  have hbias : (mulWideDatapath a b).toNat = (foldPass (foldPass (biasedSum a b))).toNat - 1 :=
    BitVec.toNat_sub_of_le (BitVec.le_def.2 hpos)
  omega

end Sys2Proof
end

section
/-! SUPPORT. What `MUL.W`, `INIT.W` and `RDPOW.W` answer (40_modmul_wide.md R123 to R129). -/

namespace Sys2Proof

open Sys2Proof.Machine Sys2Proof.Laws

variable {s t : State}

/-! ### `MUL.W` -/

section Multiply

variable {a b : Lane}

theorem exec_mulW_of_lt (ha : a.toNat < 2 ^ 61 - 1) (hb : b.toNat < 2 ^ 61 - 1) :
    exec (.mulW a b) s = .next (replied .ok (a.toNat * b.toNat % (2 ^ 61 - 1)) s) :=
  if_pos ⟨ha, hb⟩

theorem exec_mulW_of_le (h : 2 ^ 61 - 1 ≤ a.toNat ∨ 2 ^ 61 - 1 ≤ b.toNat) :
    exec (.mulW a b) s = .next (replied .operandRange 0 s) :=
  if_neg fun ⟨ha, hb⟩ => h.elim ha.not_ge hb.not_ge

theorem exec_mulW_comm (a b : Lane) (s : State) : exec (.mulW a b) s = exec (.mulW b a) s := by
  by_cases h : a.toNat < 2 ^ 61 - 1 ∧ b.toNat < 2 ^ 61 - 1
  · obtain ⟨ha, hb⟩ := h
    rw [exec_mulW_of_lt ha hb, exec_mulW_of_lt hb ha, Nat.mul_comm]
  · rw [exec_mulW_of_le (by omega), exec_mulW_of_le (by omega)]

theorem exec_mulW_one (ha : a.toNat < 2 ^ 61 - 1) :
    exec (.mulW a 1) s = .next (replied .ok a.toNat s) := by
  have hone : (1 : Lane).toNat = 1 := rfl
  rw [exec_mulW_of_lt ha (by decide), hone, Nat.mul_one, Nat.mod_eq_of_lt ha]

theorem exec_mulW_zero (ha : a.toNat < 2 ^ 61 - 1) :
    exec (.mulW 0 a) s = .next (replied .ok 0 s) := by
  have hzero : (0 : Lane).toNat = 0 := rfl
  rw [exec_mulW_of_lt (by decide) ha, hzero, Nat.zero_mul, Nat.zero_mod]

end Multiply

/-- Settles O11: a row of the opcode map, and the two branches of the multiplication. -/
theorem mulWideAnswers : Obligations.MulWideAnswers := fun _ a b =>
  ⟨(OpcodeMap.mulW a b).decode_eq, exec_mulW_of_lt, exec_mulW_of_le⟩

/-- Settles O16, from the product that `MUL.W` answers. -/
theorem mulWideLaws : Obligations.MulWideLaws := fun s a b =>
  ⟨exec_mulW_comm a b s, fun ha => ⟨exec_mulW_one ha, exec_mulW_zero ha⟩⟩

/-! ### `INIT.W` -/

/-- `INIT.W` answers the base that the initialisation leaves. -/
theorem exec_initW (s : State) :
    exec .initW s = .next (replied .ok (initWide s).baseW.toNat (initWide s)) :=
  answer_setWidth (by decide) _ _

/-- The first initialisation leaves the base of the seed. -/
theorem exec_initW_baseW (hs : s.initW = false) (h : exec .initW s = .next t) :
    t.baseW = deriveBase s.seed := by
  rw [exec_initW, initWide_of_not_init hs] at h
  cases h
  rfl

/-- A built table satisfies the recurrence of 40_modmul_wide.md R124. -/
theorem powWAt_built_succ {base : WideEntry} (hbuilt : s.powW = .built base) {k : Nat}
    (hk : k + 1 < s.maxLen.toNat) :
    entryNum (powWAt s (k + 1)) = base.toNat * entryNum (powWAt s k) % (2 ^ 61 - 1) := by
  rw [powWAt_built hbuilt hk, powWAt_built hbuilt (Nat.lt_of_succ_lt hk), pow_succ']
  exact (Nat.mul_mod_mod ..).symm

theorem powWAt_built_zero {base : WideEntry} (hbuilt : s.powW = .built base)
    (h : 0 < s.maxLen.toNat) : entryNum (powWAt s 0) = 1 := by
  rw [powWAt_built hbuilt h, pow_zero]
  rfl

/-- Settles O18: the state is that of `fillWide`, whose table is built from the derived base; with the flag
set `initWide` is the identity. -/
theorem initWideInitialisesOnce : Obligations.InitWideInitialisesOnce := by
  intro s a b
  refine ⟨(OpcodeMap.initW a b).decode_eq, fun hs => ?_, fun hs => ⟨fillWide s, ?_, rfl,
    deriveBase_toNat s.seed, powWAt_built_zero (s := fillWide s) rfl,
    fun i hi hlt => ⟨powWAt_isSome.2 hlt, ?_⟩⟩⟩
  · rw [exec_initW, initWide_of_init hs]
  · rw [exec_initW, initWide_of_not_init hs]
  · obtain ⟨k, rfl⟩ := Nat.exists_eq_add_of_le' hi
    exact powWAt_built_succ (s := fillWide s) rfl hlt

theorem deriveBase_eq_iff (seed seed' : Lane) : deriveBase seed = deriveBase seed' ↔
    seed.toNat % Config.midLo = seed'.toNat % Config.midLo := by
  rw [← BitVec.toNat_inj, deriveBase_toNat, deriveBase_toNat, Nat.add_left_cancel_iff]

/-- Settles O22: the base is `MID_LO` plus the residue of the seed. -/
theorem seedsGiveTheSameBaseIffCongruent : Obligations.SeedsGiveTheSameBaseIffCongruent := by
  intro s s' t t' hs hs' h h'
  rw [exec_initW_baseW hs h, exec_initW_baseW hs' h']
  exact deriveBase_eq_iff s.seed s'.seed

/-! ### `RDPOW.W` -/

section ReadPower

variable {i : Lane}

theorem exec_rdpowW_of_not_init (hs : s.initW = false) :
    exec (.rdpowW i) s = .next (replied .notInitialised 0 s) :=
  if_pos hs

/-- An initialised slice checks the index and answers the entry. -/
theorem exec_rdpowW_of_init (hs : s.initW = true) : exec (.rdpowW i) s =
    if belowMaxLen s i then answerEntry .powW i.toNat (powWAt s i.toNat) s
    else raiseStatus .indexOutOfRange s :=
  if_neg (by simp [hs])

theorem exec_rdpowW_of_le (hs : s.initW = true) (hi : s.maxLen.toNat ≤ i.toNat) :
    exec (.rdpowW i) s = .next (replied .indexOutOfRange 0 s) :=
  (exec_rdpowW_of_init hs).trans (if_neg hi.not_gt)

theorem exec_rdpowW_of_lt {v : WideEntry} (hs : s.initW = true) (hi : i.toNat < s.maxLen.toNat)
    (hv : powWAt s i.toNat = some v) :
    exec (.rdpowW i) s = .next (replied .ok v.toNat s) := by
  rw [exec_rdpowW_of_init hs, if_pos hi, hv, answerEntry_some (by decide)]

theorem exec_rdpowW_of_built {base : WideEntry} (hs : s.initW = true)
    (hi : i.toNat < s.maxLen.toNat) (hbuilt : s.powW = .built base) :
    exec (.rdpowW i) s = .next (replied .ok (base.toNat ^ i.toNat % (2 ^ 61 - 1)) s) := by
  rw [exec_rdpowW_of_lt hs hi (powWAt_of_lt hi)]
  have hentry := powWAt_built hbuilt hi
  rw [powWAt_of_lt hi] at hentry
  exact congrArg (fun n => Host.Outcome.next (replied .ok n s)) hentry

end ReadPower

/-- Settles O20: the branches in their order; a built table holds the powers of its base. -/
theorem readPowerWideAnswers : Obligations.ReadPowerWideAnswers := fun _ i b =>
  ⟨(OpcodeMap.rdpowW i b).decode_eq, exec_rdpowW_of_not_init, exec_rdpowW_of_le,
    fun hs hi => ⟨_, powWAt_of_lt hi, exec_rdpowW_of_lt hs hi (powWAt_of_lt hi)⟩,
    exec_rdpowW_of_built⟩

end Sys2Proof
end

section
/-! SUPPORT. The polynomial hash of a sequence, the recurrence that computes it, and the difference that a
query takes to leave the hash of a range: arithmetic alone, for any modulus and so for either slice. -/

namespace Sys2Proof

open Sys2Proof.Machine Sys2Proof.Laws

/-- The polynomial hash of `y 0, …, y (d - 1)`, the first symbol at the highest power of the base
(41_rollhash_wide.md R146). -/
def polyHash (base : Nat) (y : Nat → Nat) (d : Nat) : Nat :=
  ∑ j ∈ Finset.range d, y j * base ^ (d - 1 - j)

section Arithmetic

variable {base d h l m p q r : Nat} {y z : Nat → Nat}

@[simp] theorem polyHash_zero : polyHash base y 0 = 0 := rfl

/-- One more symbol is one step of the recurrence. -/
theorem polyHash_succ : polyHash base y (d + 1) = polyHash base y d * base + y d := by
  have hterm : ∀ j ∈ Finset.range d, y j * base ^ (d - j) = y j * base ^ (d - 1 - j) * base := by
    intro j hj
    have hd : d - j = d - 1 - j + 1 := by
      have := Finset.mem_range.1 hj
      omega
    rw [hd, pow_succ, Nat.mul_assoc]
  simp [polyHash, Finset.sum_range_succ, Finset.sum_congr rfl hterm, Finset.sum_mul]

theorem polyHash_one : polyHash base y 1 = y 0 := by
  simp [polyHash_succ]

theorem polyHash_congr (hyz : ∀ j < d, y j = z j) : polyHash base y d = polyHash base z d :=
  Finset.sum_congr rfl fun j hj => by rw [hyz j (Finset.mem_range.1 hj)]

/-- The sum over a range read forward. -/
theorem sum_forward_eq_polyHash (hlr : l ≤ r) :
    ∑ k ∈ Finset.Icc l r, y k * base ^ (r - k) =
      polyHash base (fun j => y (l + j)) (r - l + 1) := by
  rw [← Finset.Ico_add_one_right_eq_Icc, Finset.sum_Ico_eq_sum_range, Nat.sub_add_comm hlr]
  refine Finset.sum_congr rfl fun j _ => ?_
  rw [Nat.add_sub_cancel, Nat.sub_add_eq]

/-- The sum over a range read backward. -/
theorem sum_backward_eq_polyHash (hlr : l ≤ r) :
    ∑ k ∈ Finset.Icc l r, y k * base ^ (k - l) =
      polyHash base (fun j => y (r - j)) (r - l + 1) := by
  rw [← Finset.Ico_add_one_right_eq_Icc, Finset.sum_Ico_eq_sum_range, Nat.sub_add_comm hlr,
    ← Finset.sum_range_reflect]
  refine Finset.sum_congr rfl fun j hj => ?_
  have hj' := Finset.mem_range.1 hj
  have hk : l + (r - l + 1 - 1 - j) = r - j := by omega
  rw [hk]
  congr 2
  omega

/-- Accumulators that follow the recurrence over `d` symbols: the first one has moved up by `base ^ d`, and
the hash of the symbols stands below it. -/
theorem modEq_polyHash {acc : Nat → Nat}
    (hstep : ∀ j < d, acc (j + 1) ≡ acc j * base + y j [MOD m]) :
    acc d ≡ base ^ d * acc 0 + polyHash base y d [MOD m] := by
  induction d with
  | zero => simp [Nat.ModEq.refl]
  | succ d ih =>
    have hprev := ih fun j hj => hstep j (hj.trans d.lt_succ_self)
    calc acc (d + 1) ≡ acc d * base + y d [MOD m] := hstep d d.lt_succ_self
      _ ≡ (base ^ d * acc 0 + polyHash base y d) * base + y d [MOD m] :=
        (hprev.mul_right base).add_right (y d)
      _ = base ^ (d + 1) * acc 0 + polyHash base y (d + 1) := by
        rw [polyHash_succ, pow_succ]
        ring

/-- The conditional add leaves the residue that `p` has beyond `q`. -/
theorem subMod_of_modEq (hp : p < m) (hq : q < m) (hmod : p ≡ q + h [MOD m]) :
    subMod m p q = h % m := by
  have hsum : q + subMod m p q ≡ p [MOD m] := by
    unfold subMod
    split_ifs with hle
    · rw [Nat.add_sub_cancel' hle]
    · rw [Nat.add_sub_cancel' (by omega)]
      exact Nat.add_modEq_right
  have hres : subMod m p q ≡ h [MOD m] := Nat.ModEq.add_left_cancel' q (hsum.trans hmod)
  exact (Nat.mod_eq_of_lt (subMod_lt hp hq)).symm.trans hres

/-- The difference with a reduced product is the difference with the product itself. -/
theorem subMod_mul_mod_eq_toNat {a b : Nat} (hp : p < m) :
    subMod m p (a * b % m) = (((p : Int) - a * b) % m).toNat := by
  have hq : a * b % m < m := Nat.mod_lt _ (by omega)
  have hmod : (subMod m p (a * b % m) : Int) = ((p : Int) - a * b) % m := by
    rw [subMod_eq_emod hp hq]
    push_cast
    exact Int.sub_emod_emod _ _ _
  rw [← hmod, Int.toNat_natCast]

end Arithmetic

end Sys2Proof
end

section
/-! SUPPORT. What `BUILD.W`, `RDPRE.W` and `RDSUF.W` answer (41_rollhash_wide.md R141, R144, R145). -/

namespace Sys2Proof

open Sys2Proof.Machine Sys2Proof.Laws

variable {s t u : State}

/-! ### `BUILD.W` -/

/-- `WSYM` writes the symbol buffer alone, so the wide instance stays the one of its sequence. -/
theorem WideInstance.exec_wsym {x : Nat → Nat} (inst : WideInstance t x) {k v : Lane}
    (h : Machine.exec (.wsym k v) t = .next u) : u.nW = t.nW ∧ WideInstance u x := by
  obtain ⟨hn, hpre, hsuf⟩ := exec_instanceW h nofun
  obtain ⟨-, hbase, -⟩ := exec_tableW h nofun nofun
  exact ⟨hn, inst.of_same hn hpre hsuf (exec_maxLen h) fun _ => hbase⟩

/-- Settles O23: the construction starts from the state that `INIT.W` leaves. -/
theorem buildWideConstructs : Obligations.BuildWideConstructs := fun s n b =>
  ⟨(OpcodeMap.buildW n b).decode_eq, exec_buildW_of_le, fun hn =>
    ⟨buildWide n.toNat s, initWide s, exec_buildW_of_lt hn, exec_initW s, buildWide_frame n.toNat s,
      buildWide_nW hn, wideInstance_buildWide hn, fun _ _ _ => (wideInstance_buildWide hn).exec_wsym⟩⟩

/-! ### `RDPRE.W` and `RDSUF.W` -/

section ReadEntry

variable {i : Lane} {v : WideEntry}

theorem exec_rdpreW_of_lt (h : s.nW.toNat < i.toNat) :
    exec (.rdpreW i) s = .next (replied .indexOutOfRange 0 s) :=
  if_neg h.not_ge

theorem exec_rdpreW_of_le (h : i.toNat ≤ s.nW.toNat) (hv : preWAt s i.toNat = some v) :
    exec (.rdpreW i) s = .next (replied .ok v.toNat s) := by
  rw [← answerEntry_some (by decide) .preW i.toNat, ← hv]
  exact if_pos h

theorem exec_rdsufW_of_outside (h : i.toNat < 1 ∨ s.nW.toNat + 1 < i.toNat) :
    exec (.rdsufW i) s = .next (replied .indexOutOfRange 0 s) :=
  if_neg fun ⟨hlo, hhi⟩ => h.elim hlo.not_gt hhi.not_gt

theorem exec_rdsufW_of_inside (hlo : 1 ≤ i.toNat) (hhi : i.toNat ≤ s.nW.toNat + 1)
    (hv : sufWAt s i.toNat = some v) : exec (.rdsufW i) s = .next (replied .ok v.toNat s) := by
  rw [← answerEntry_some (by decide) .sufW i.toNat, ← hv]
  exact if_pos ⟨hlo, hhi⟩

/-- The empty accumulator stands last and reads as 0 (41_rollhash_wide.md R145). -/
theorem exec_rdsufW_last (inv : MachineInv s) (h : i.toNat = s.nW.toNat + 1) :
    exec (.rdsufW i) s = .next (replied .ok 0 s) :=
  exec_rdsufW_of_inside (v := 0) (by omega) h.le (h ▸ inv.wide.suf_last)

end ReadEntry

/-- Settles O31: the two branches; the empty accumulator stands first. -/
theorem readPrefixWideAnswers : Obligations.ReadPrefixWideAnswers := fun _ i b =>
  ⟨(OpcodeMap.rdpreW i b).decode_eq, exec_rdpreW_of_lt, fun _ => exec_rdpreW_of_le,
    fun inv => exec_rdpreW_of_le (v := 0) (Nat.zero_le _) inv.wide.pre_first⟩

/-- Settles O32: the two branches; the empty accumulator stands last. -/
theorem readSuffixWideAnswers : Obligations.ReadSuffixWideAnswers := fun _ i b =>
  ⟨(OpcodeMap.rdsufW i b).decode_eq, exec_rdsufW_of_outside, fun _ => exec_rdsufW_of_inside,
    exec_rdsufW_last⟩

end Sys2Proof
end

section
/-! SUPPORT. What `GETH.W` and `REVH.W` answer: the difference of the entries they name, and over the
accumulators of a sequence the polynomial hash of the range (41_rollhash_wide.md R142, R143, R146, R147, R149). -/

namespace Sys2Proof

open Sys2Proof.Machine Sys2Proof.Laws

variable {s : State} {l r : Lane}

/-! ### The answer of a query in terms of its three entries -/

section Entries

variable {p g q : WideEntry}

theorem exec_gethW_of_outside (h : ¬ (l.toNat ≤ r.toNat ∧ r.toNat < s.nW.toNat)) :
    exec (.gethW l r) s = .next (replied .indexOutOfRange 0 s) :=
  if_neg h

theorem exec_revhW_of_outside (h : ¬ (l.toNat ≤ r.toNat ∧ r.toNat < s.nW.toNat)) :
    exec (.revhW l r) s = .next (replied .indexOutOfRange 0 s) :=
  if_neg h

theorem exec_gethW_of_inside (hlr : l.toNat ≤ r.toNat) (hr : r.toNat < s.nW.toNat)
    (hp : preWAt s (r.toNat + 1) = some p) (hg : powWAt s (r.toNat - l.toNat + 1) = some g)
    (hq : preWAt s l.toNat = some q) : exec (.gethW l r) s =
      .next (replied .ok (subMod Config.mW p.toNat (g.toNat * q.toNat % Config.mW)) s) := by
  refine (if_pos ⟨hlr, hr⟩).trans ?_
  rw [hp, hg, hq]
  rfl

theorem exec_revhW_of_inside (hlr : l.toNat ≤ r.toNat) (hr : r.toNat < s.nW.toNat)
    (hp : sufWAt s (l.toNat + 1) = some p) (hg : powWAt s (r.toNat - l.toNat + 1) = some g)
    (hq : sufWAt s (r.toNat + 2) = some q) : exec (.revhW l r) s =
      .next (replied .ok (subMod Config.mW p.toNat (g.toNat * q.toNat % Config.mW)) s) := by
  refine (if_pos ⟨hlr, hr⟩).trans ?_
  rw [hp, hg, hq]
  rfl

end Entries

/-- Against the empty accumulator a query answers its first entry. -/
theorem subMod_mul_zeroEntry (m p g : Nat) : subMod m p (g * (0 : WideEntry).toNat % m) = p := by
  simp [subMod]

/-- From position 0 `GETH.W` answers the entry of `pre_w` (41_rollhash_wide.md R142). -/
theorem exec_gethW_from_zero (inv : MachineInv s) (hr : r.toNat < s.nW.toNat) :
    ∃ p, preWAt s (r.toNat + 1) = some p ∧ exec (.gethW 0 r) s = .next (replied .ok p.toNat s) := by
  have hrange : isRange 0 r s.nW := ⟨Nat.zero_le _, hr⟩
  obtain ⟨p, hp⟩ := Option.isSome_iff_exists.1 (inv.wide.preWAt_isSome hr)
  obtain ⟨g, hg⟩ := Option.isSome_iff_exists.1 (inv.wide.powWAt_range hrange)
  have hexec := exec_gethW_of_inside (Nat.zero_le _) hr hp hg inv.wide.pre_first
  rw [subMod_mul_zeroEntry] at hexec
  exact ⟨p, hp, hexec⟩

/-- Up to the last position `REVH.W` answers the entry of `suf_w` (41_rollhash_wide.md R143). -/
theorem exec_revhW_to_last (inv : MachineInv s) (hlr : l.toNat ≤ r.toNat)
    (hr : r.toNat + 1 = s.nW.toNat) :
    ∃ p, sufWAt s (l.toNat + 1) = some p ∧ exec (.revhW l r) s = .next (replied .ok p.toNat s) := by
  have hrange : isRange l r s.nW := ⟨hlr, by omega⟩
  obtain ⟨p, hp⟩ := Option.isSome_iff_exists.1 (inv.wide.sufWAt_isSome (k := l.toNat) (by omega))
  obtain ⟨g, hg⟩ := Option.isSome_iff_exists.1 (inv.wide.powWAt_range hrange)
  have hlast : sufWAt s (r.toNat + 2) = some 0 := by
    rw [show r.toNat + 2 = s.nW.toNat + 1 by omega]
    exact inv.wide.suf_last
  have hexec := exec_revhW_of_inside hlr hrange.2 hp hg hlast
  rw [subMod_mul_zeroEntry] at hexec
  exact ⟨p, hp, hexec⟩

/-! ### The answer of a query over an instance -/

@[simp] theorem entryNum_some {w : Nat} (v : BitVec w) : entryNum (some v) = v.toNat := rfl

section RangeHash

variable {x : Nat → Nat}

theorem WideInstance.preWAt_isSome (inst : WideInstance s x) {k : Nat} (h : k ≤ s.nW.toNat) :
    (preWAt s k).isSome = true := by
  have hl := inst.pre_length
  simp only [preWAt, isSome_getElem?]
  omega

theorem WideInstance.sufWAt_isSome (inst : WideInstance s x) {k : Nat} (h : k ≤ s.nW.toNat) :
    (sufWAt s (k + 1)).isSome = true := by
  have hl := inst.suf_length
  simp only [sufWAt, isSome_getElem?]
  omega

/-- Two accumulators of the forward walk and the symbols between them. -/
theorem WideInstance.pre_modEq (inst : WideInstance s x) {k d : Nat} (h : k + d ≤ s.nW.toNat) :
    entryNum (preWAt s (k + d)) ≡ s.baseW.toNat ^ d * entryNum (preWAt s k) +
      polyHash s.baseW.toNat (fun j => x (k + j) + 997) d [MOD Config.mW] := by
  refine modEq_polyHash (acc := fun j => entryNum (preWAt s (k + j))) fun j hj => ?_
  rw [← Nat.add_assoc, inst.pre_next (k + j) (by omega), Nat.add_assoc (_ * _)]
  exact Nat.mod_modEq _ _

/-- Two accumulators of the backward walk and the symbols between them. -/
theorem WideInstance.suf_modEq (inst : WideInstance s x) {k d : Nat} (hd : d ≤ k + 1)
    (hk : k < s.nW.toNat) :
    entryNum (sufWAt s (k + 2 - d)) ≡ s.baseW.toNat ^ d * entryNum (sufWAt s (k + 2)) +
      polyHash s.baseW.toNat (fun j => x (k - j) + 997) d [MOD Config.mW] := by
  refine modEq_polyHash (acc := fun j => entryNum (sufWAt s (k + 2 - j))) fun j hj => ?_
  have hnext : k + 2 - (j + 1) = k - j + 1 := by omega
  have hprev : k + 2 - j = k - j + 2 := by omega
  rw [hnext, hprev, inst.suf_next (k - j) (by omega), Nat.add_assoc (_ * _)]
  exact Nat.mod_modEq _ _

/-- A query whose first entry lies `d` symbols beyond its last one answers the hash of these symbols. -/
theorem wideQuery_answers_hash {a b c : ArrayName} {j k m d h : Nat} {e f : Option WideEntry}
    (hbuilt : s.powW = .built s.baseW) (hd : d < s.maxLen.toNat) (he : e.isSome = true)
    (hf : f.isSome = true) (hlt : entryNum e < Config.mW)
    (hmod : entryNum e ≡ s.baseW.toNat ^ d * entryNum f + h [MOD Config.mW]) :
    (withEntry a j e fun p => withEntry b k (powWAt s d) fun g => withEntry c m f fun q =>
      answer (wideQuery p g q) s) = .next (replied .ok (h % Config.mW) s) := by
  obtain ⟨p, rfl⟩ := Option.isSome_iff_exists.1 he
  obtain ⟨q, rfl⟩ := Option.isSome_iff_exists.1 hf
  obtain ⟨g, hg⟩ := Option.isSome_iff_exists.1 (powWAt_isSome.2 hd)
  have hpow : g.toNat = s.baseW.toNat ^ d % Config.mW := by
    rw [← powWAt_built hbuilt hd, hg, entryNum_some]
  have hprod : s.baseW.toNat ^ d * q.toNat ≡ mulWide g.toNat q.toNat [MOD Config.mW] := by
    rw [mulWide, hpow]
    exact ((Nat.mod_modEq _ _).mul_right _).symm.trans (Nat.mod_modEq _ _).symm
  have hsub := subMod_of_modEq hlt (mulWide_lt _ _) (hmod.trans (hprod.add_right h))
  rw [hg, ← hsub]
  rfl

/-- `GETH.W` hashes the range read forward (41_rollhash_wide.md R146). -/
theorem WideInstance.exec_gethW (inst : WideInstance s x) (hbuilt : s.powW = .built s.baseW)
    (hlr : l.toNat ≤ r.toNat) (hr : r.toNat < s.nW.toNat) :
    Machine.exec (.gethW l r) s = .next (replied .ok (polyHash s.baseW.toNat
      (fun j => x (l.toNat + j) + 997) (r.toNat - l.toNat + 1) % Config.mW) s) := by
  have hmax := inst.length_lt
  have hlt : entryNum (preWAt s (r.toNat + 1)) < Config.mW :=
    (inst.pre_next r.toNat hr).trans_lt (Nat.mod_lt _ (by decide))
  have hmod := inst.pre_modEq (k := l.toNat) (d := r.toNat - l.toNat + 1) (by omega)
  rw [show l.toNat + (r.toNat - l.toNat + 1) = r.toNat + 1 by omega] at hmod
  exact (if_pos ⟨hlr, hr⟩).trans (wideQuery_answers_hash hbuilt (by omega) (inst.preWAt_isSome hr)
    (inst.preWAt_isSome (hlr.trans hr.le)) hlt hmod)

/-- `REVH.W` hashes the range read backward (41_rollhash_wide.md R146). -/
theorem WideInstance.exec_revhW (inst : WideInstance s x) (hbuilt : s.powW = .built s.baseW)
    (hlr : l.toNat ≤ r.toNat) (hr : r.toNat < s.nW.toNat) :
    Machine.exec (.revhW l r) s = .next (replied .ok (polyHash s.baseW.toNat
      (fun j => x (r.toNat - j) + 997) (r.toNat - l.toNat + 1) % Config.mW) s) := by
  have hmax := inst.length_lt
  have hlt : entryNum (sufWAt s (l.toNat + 1)) < Config.mW :=
    (inst.suf_next l.toNat (hlr.trans_lt hr)).trans_lt (Nat.mod_lt _ (by decide))
  have hmod := inst.suf_modEq (k := r.toNat) (d := r.toNat - l.toNat + 1) (by omega) hr
  rw [show r.toNat + 2 - (r.toNat - l.toNat + 1) = l.toNat + 1 by omega] at hmod
  exact (if_pos ⟨hlr, hr⟩).trans (wideQuery_answers_hash hbuilt (by omega)
    (inst.sufWAt_isSome (hlr.trans hr.le)) (inst.sufWAt_isSome hr) hlt hmod)

/-- One symbol and the offset do not reach the modulus. -/
theorem polyHash_one_mod {base : Nat} {y : Nat → Nat} (hy : y 0 < 2 ^ 32) :
    polyHash base (fun j => y j + 997) 1 % Config.mW = y 0 + 997 := by
  rw [polyHash_one]
  exact Nat.mod_eq_of_lt (by simp only [Config.mW]; omega)

theorem WideInstance.exec_gethW_one (inst : WideInstance s x) (hbuilt : s.powW = .built s.baseW)
    (hl : l.toNat < s.nW.toNat) (hx : x l.toNat < 2 ^ 32) :
    Machine.exec (.gethW l l) s = .next (replied .ok (x l.toNat + 997) s) := by
  rw [inst.exec_gethW hbuilt le_rfl hl, Nat.sub_self, polyHash_one_mod hx]
  rfl

theorem WideInstance.exec_revhW_one (inst : WideInstance s x) (hbuilt : s.powW = .built s.baseW)
    (hl : l.toNat < s.nW.toNat) (hx : x l.toNat < 2 ^ 32) :
    Machine.exec (.revhW l l) s = .next (replied .ok (x l.toNat + 997) s) := by
  rw [inst.exec_revhW hbuilt le_rfl hl, Nat.sub_self, polyHash_one_mod hx]
  rfl

end RangeHash

/-! ### The obligations on the queries -/

/-- Settles O27: the refused ranges, the difference of the entries, and the two cases of R142. -/
theorem forwardHashWideAnswers : Obligations.ForwardHashWideAnswers := fun s l r =>
  ⟨(OpcodeMap.gethW l r).decode_eq, exec_gethW_of_outside,
    fun _ _ _ hlr hr hp hg hq hlt => by
      rw [exec_gethW_of_inside hlr hr hp hg hq, subMod_mul_mod_eq_toNat (m := Config.mW) hlt]
      rfl,
    exec_gethW_from_zero, fun _ inst => inst.exec_gethW_one⟩

/-- Settles O28: the refused ranges, the difference of the entries, and the two cases of R143. -/
theorem reverseHashWideAnswers : Obligations.ReverseHashWideAnswers := fun s l r =>
  ⟨(OpcodeMap.revhW l r).decode_eq, exec_revhW_of_outside,
    fun _ _ _ hlr hr hp hg hq hlt => by
      rw [exec_revhW_of_inside hlr hr hp hg hq, subMod_mul_mod_eq_toNat (m := Config.mW) hlt]
      rfl,
    exec_revhW_to_last, fun _ inst => inst.exec_revhW_one⟩

/-- Settles O35: the recurrences telescope to the hash of the range, and the sum is that hash. -/
theorem wideQueriesHashTheRange : Obligations.WideQueriesHashTheRange := by
  intro s x l r inst hbuilt hlr hr
  rw [sum_forward_eq_polyHash (y := fun k => x k + 997) hlr,
    sum_backward_eq_polyHash (y := fun k => x k + 997) hlr]
  exact ⟨inst.exec_gethW hbuilt hlr hr, inst.exec_revhW hbuilt hlr hr⟩

/-- Settles O37: both queries hash the same symbols in the same order. -/
theorem wideMirroredRangesHashAlike : Obligations.WideMirroredRangesHashAlike := by
  intro s x l r l' r' inst hbuilt hlr hr hlr' hr' hlen hmirror
  have hsame : polyHash s.baseW.toNat (fun j => x (l.toNat + j) + 997) (r.toNat - l.toNat + 1) =
      polyHash s.baseW.toNat (fun j => x (r'.toNat - j) + 997) (r'.toNat - l'.toNat + 1) := by
    rw [← hlen]
    exact polyHash_congr fun j hj => congrArg (· + 997) (hmirror j (Nat.le_of_lt_succ hj))
  refine ⟨_, inst.exec_gethW hbuilt hlr hr, ?_⟩
  rw [inst.exec_revhW hbuilt hlr' hr', hsame]

/-- In the prime field no multiple of a nonzero base by 1111 vanishes, so putting an `r` (symbol 114, with
the offset 1111) in front of the `a` changes its hash 1094 (41_rollhash_wide.md R149). -/
theorem mul_base_add_mod_ne {b : Nat} (hpos : 0 < b) (hlt : b < 2 ^ 61 - 1) :
    (1111 * b + 1094) % (2 ^ 61 - 1) ≠ 1094 := by
  intro heq
  have hmod : 1111 * b + 1094 ≡ 0 + 1094 [MOD 2 ^ 61 - 1] := heq
  have hdvd := Nat.modEq_zero_iff_dvd.1 (hmod.add_right_cancel' 1094)
  rcases (Nat.Prime.dvd_mul prime_wideModulus).1 hdvd with h | h
  · exact absurd (Nat.le_of_dvd (by decide) h) (by decide)
  · exact absurd (Nat.le_of_dvd hpos h) hlt.not_ge

/-- Settles O39: the hashes are 1094 and `1111 * base_w + 1094`. -/
theorem lengthMismatchDoesNotCollide : Obligations.LengthMismatchDoesNotCollide := by
  intro s x inv inst hn h1 h5 h6
  obtain ⟨hmid, hmid', hbuilt⟩ := inv.wide.after_init (inv.wide.built_init (by omega))
  have hne := mul_base_add_mod_ne (b := s.baseW.toNat) (by simp only [Config.midLo] at *; omega)
    (by simp only [Config.midLo] at *; omega)
  refine ⟨1094, (1111 * s.baseW.toNat + 1094) % (2 ^ 61 - 1), hne.symm, by decide,
    Nat.mod_lt _ (by decide), ?_, ?_⟩
  · have hgeth := inst.exec_gethW_one (l := 1) hbuilt (by rw [hn]; decide) (by simp [h1])
    simpa [h1] using hgeth
  · have hrevh := inst.exec_revhW (l := 5) (r := 6) hbuilt (by decide) (by rw [hn]; decide)
    simpa [polyHash_succ, h5, h6, Config.mW] using hrevh

end Sys2Proof
end

section
/-! SUPPORT. What `MUL.N`, `INIT.N` and `RDPOW.N` answer (42_modmul_narrow.md R162 to R166). -/

namespace Sys2Proof

open Sys2Proof.Machine Sys2Proof.Laws

variable {s : State}

/-! ### `INIT.N` -/

/-- `INIT.N` answers the constant base, whatever the initialisation has to do. -/
theorem exec_initN (s : State) :
    exec .initN s = .next (replied .ok Config.baseN.toNat (initNarrow s)) :=
  answer_setWidth (by decide) _ _

/-- A built table satisfies the recurrence of 42_modmul_narrow.md R163. -/
theorem powNAt_built_succ {base : NarrowEntry} (hbuilt : s.powN = .built base) {k : Nat}
    (hk : k + 1 < s.maxLen.toNat) :
    entryNum (powNAt s (k + 1)) = base.toNat * entryNum (powNAt s k) % Config.mN := by
  rw [powNAt_built hbuilt hk, powNAt_built hbuilt (Nat.lt_of_succ_lt hk), Nat.mul_mod_mod, pow_succ']

theorem powNAt_built_zero {base : NarrowEntry} (hbuilt : s.powN = .built base)
    (h : 0 < s.maxLen.toNat) : entryNum (powNAt s 0) = 1 := by
  rw [powNAt_built hbuilt h, pow_zero]
  rfl

/-- Settles O19: the first initialisation leaves the state of `fillNarrow`, whose table is built from
`BASE_N`; with the flag set `initNarrow` is the identity. -/
theorem initNarrowInitialisesOnce : Obligations.InitNarrowInitialisesOnce := by
  intro s a b
  have hbuilt := fillNarrow_powN s
  refine ⟨(OpcodeMap.initN a b).decode_eq, fun hs => ?_, fun hs => ⟨fillNarrow s, ?_, rfl,
    powNAt_built_zero hbuilt, fun i hi hlt => ⟨powNAt_isSome.2 hlt, ?_⟩⟩⟩
  · rw [exec_initN, initNarrow_of_init hs]
  · rw [exec_initN, initNarrow_of_not_init hs]
  · obtain ⟨k, rfl⟩ := Nat.exists_eq_add_of_le' hi
    exact powNAt_built_succ hbuilt hlt

/-! ### `MUL.N` -/

section Multiply

variable {a b : Lane}

theorem exec_mulN_of_lt (ha : a.toNat < 998244353) (hb : b.toNat < 998244353) :
    exec (.mulN a b) s = .next (replied .ok (a.toNat * b.toNat % 998244353) s) :=
  if_pos ⟨ha, hb⟩

theorem exec_mulN_of_le (h : 998244353 ≤ a.toNat ∨ 998244353 ≤ b.toNat) :
    exec (.mulN a b) s = .next (replied .operandRange 0 s) :=
  if_neg fun ⟨ha, hb⟩ => h.elim ha.not_ge hb.not_ge

/-- The check and the product are both symmetric in the operands. -/
theorem exec_mulN_comm (a b : Lane) (s : State) : exec (.mulN a b) s = exec (.mulN b a) s := by
  change execMulN a b s = execMulN b a s
  simp only [execMulN, mulNarrow, and_comm, Nat.mul_comm]

theorem exec_mulN_one (ha : a.toNat < 998244353) :
    exec (.mulN a 1) s = .next (replied .ok a.toNat s) := by
  have hone : (1 : Lane).toNat = 1 := rfl
  rw [exec_mulN_of_lt ha (by decide), hone, Nat.mul_one, Nat.mod_eq_of_lt ha]

end Multiply

/-- Settles O12: a row of the opcode map, and the two branches of the multiplication. -/
theorem mulNarrowAnswers : Obligations.MulNarrowAnswers := fun _ a b =>
  ⟨(OpcodeMap.mulN a b).decode_eq, exec_mulN_of_lt, exec_mulN_of_le⟩

/-- Settles O17, from the product that `MUL.N` answers. -/
theorem mulNarrowLaws : Obligations.MulNarrowLaws := fun s a b =>
  ⟨exec_mulN_comm a b s, exec_mulN_one⟩

/-! ### `RDPOW.N` -/

section ReadPower

variable {i : Lane}

theorem exec_rdpowN_of_not_init (hs : s.initN = false) :
    exec (.rdpowN i) s = .next (replied .notInitialised 0 s) :=
  if_pos hs

/-- An initialised slice checks the index and answers the entry. -/
theorem exec_rdpowN_of_init (hs : s.initN = true) : exec (.rdpowN i) s =
    if belowMaxLen s i then answerEntry .powN i.toNat (powNAt s i.toNat) s
    else raiseStatus .indexOutOfRange s :=
  if_neg (by simp [hs])

theorem exec_rdpowN_of_le (hs : s.initN = true) (hi : s.maxLen.toNat ≤ i.toNat) :
    exec (.rdpowN i) s = .next (replied .indexOutOfRange 0 s) :=
  (exec_rdpowN_of_init hs).trans (if_neg hi.not_gt)

theorem exec_rdpowN_of_lt {v : NarrowEntry} (hs : s.initN = true) (hi : i.toNat < s.maxLen.toNat)
    (hv : powNAt s i.toNat = some v) :
    exec (.rdpowN i) s = .next (replied .ok v.toNat s) := by
  rw [exec_rdpowN_of_init hs, if_pos hi, hv, answerEntry_some (by decide)]

theorem exec_rdpowN_of_built {base : NarrowEntry} (hs : s.initN = true)
    (hi : i.toNat < s.maxLen.toNat) (hbuilt : s.powN = .built base) :
    exec (.rdpowN i) s = .next (replied .ok (base.toNat ^ i.toNat % Config.mN) s) := by
  obtain ⟨v, hv⟩ := Option.isSome_iff_exists.1 (powNAt_isSome.2 hi)
  rw [exec_rdpowN_of_lt hs hi hv, ← powNAt_built hbuilt hi, hv, entryNum_some]

end ReadPower

/-- Settles O21: the branches in their order; a built table holds the powers of its base. -/
theorem readPowerNarrowAnswers : Obligations.ReadPowerNarrowAnswers := fun _ i b =>
  ⟨(OpcodeMap.rdpowN i b).decode_eq, exec_rdpowN_of_not_init, exec_rdpowN_of_le,
    fun hs hi => ⟨_, powNAt_of_lt hi, exec_rdpowN_of_lt hs hi (powNAt_of_lt hi)⟩,
    exec_rdpowN_of_built⟩

end Sys2Proof
end

section
/-! SUPPORT. What `BUILD.N`, `RDPRE.N` and `RDSUF.N` answer (43_rollhash_narrow.md R176, R179, R180). -/

namespace Sys2Proof

open Sys2Proof.Machine Sys2Proof.Laws

/-- Settles O24: the construction starts from the state that `INIT.N` leaves. -/
theorem buildNarrowConstructs : Obligations.BuildNarrowConstructs := fun s n b =>
  ⟨(OpcodeMap.buildN n b).decode_eq, exec_buildN_of_le, fun hn =>
    ⟨buildNarrow n.toNat s, initNarrow s, exec_buildN_of_lt hn, exec_initN s,
      buildNarrow_frame n.toNat s, buildNarrow_nN hn, narrowInstance_buildNarrow hn⟩⟩

section ReadEntry

variable {s : State} {i : Lane} {v : NarrowEntry}

theorem exec_rdpreN_of_lt (h : s.nN.toNat < i.toNat) :
    exec (.rdpreN i) s = .next (replied .indexOutOfRange 0 s) :=
  if_neg h.not_ge

theorem exec_rdpreN_of_le (h : i.toNat ≤ s.nN.toNat) (hv : preNAt s i.toNat = some v) :
    exec (.rdpreN i) s = .next (replied .ok v.toNat s) := by
  rw [← answerEntry_some (by decide) .preN i.toNat, ← hv]
  exact if_pos h

theorem exec_rdsufN_of_lt (h : s.nN.toNat < i.toNat) :
    exec (.rdsufN i) s = .next (replied .indexOutOfRange 0 s) :=
  if_neg h.not_ge

theorem exec_rdsufN_of_le (h : i.toNat ≤ s.nN.toNat) (hv : sufNAt s i.toNat = some v) :
    exec (.rdsufN i) s = .next (replied .ok v.toNat s) := by
  rw [← answerEntry_some (by decide) .sufN i.toNat, ← hv]
  exact if_pos h

end ReadEntry

/-- Settles O33: the two branches; the empty accumulator stands first. -/
theorem readPrefixNarrowAnswers : Obligations.ReadPrefixNarrowAnswers := fun _ i b =>
  ⟨(OpcodeMap.rdpreN i b).decode_eq, exec_rdpreN_of_lt, fun _ => exec_rdpreN_of_le,
    fun inv => exec_rdpreN_of_le (v := 0) (Nat.zero_le _) inv.narrow.pre_first⟩

/-- Settles O34: the two branches; the empty accumulator stands last, at `n_n`. -/
theorem readSuffixNarrowAnswers : Obligations.ReadSuffixNarrowAnswers := fun _ i b =>
  ⟨(OpcodeMap.rdsufN i b).decode_eq, exec_rdsufN_of_lt, fun _ => exec_rdsufN_of_le,
    fun inv h => exec_rdsufN_of_le (v := 0) h.le (h ▸ inv.narrow.suf_last)⟩

end Sys2Proof
end

section
/-! SUPPORT. What `GETH.N` and `REVH.N` answer: the difference of the entries they name, and over the
accumulators of a sequence the polynomial hash of the range (43_rollhash_narrow.md R177, R178, R181 to R183). -/

namespace Sys2Proof

open Sys2Proof.Machine Sys2Proof.Laws

variable {s : State} {l r : Lane}

/-! ### The answer of a query in terms of its three entries -/

section Entries

variable {p g q : NarrowEntry}

theorem exec_gethN_of_outside (h : ¬ (l.toNat ≤ r.toNat ∧ r.toNat < s.nN.toNat)) :
    exec (.gethN l r) s = .next (replied .indexOutOfRange 0 s) :=
  if_neg h

theorem exec_revhN_of_outside (h : ¬ (l.toNat ≤ r.toNat ∧ r.toNat < s.nN.toNat)) :
    exec (.revhN l r) s = .next (replied .indexOutOfRange 0 s) :=
  if_neg h

theorem exec_gethN_of_inside (hlr : l.toNat ≤ r.toNat) (hr : r.toNat < s.nN.toNat)
    (hp : preNAt s (r.toNat + 1) = some p) (hg : powNAt s (r.toNat - l.toNat + 1) = some g)
    (hq : preNAt s l.toNat = some q) : exec (.gethN l r) s =
      .next (replied .ok (subMod Config.mN p.toNat (g.toNat * q.toNat % Config.mN)) s) := by
  refine (if_pos ⟨hlr, hr⟩).trans ?_
  rw [hp, hg, hq]
  rfl

theorem exec_revhN_of_inside (hlr : l.toNat ≤ r.toNat) (hr : r.toNat < s.nN.toNat)
    (hp : sufNAt s l.toNat = some p) (hg : powNAt s (r.toNat - l.toNat + 1) = some g)
    (hq : sufNAt s (r.toNat + 1) = some q) : exec (.revhN l r) s =
      .next (replied .ok (subMod Config.mN p.toNat (g.toNat * q.toNat % Config.mN)) s) := by
  refine (if_pos ⟨hlr, hr⟩).trans ?_
  rw [hp, hg, hq]
  rfl

end Entries

/-! ### The answer of a query over an instance -/

/-- A first entry `d` symbols beyond the last one leaves, after the product with the table's power, the hash
of these symbols. -/
theorem subMod_mul_of_modEq_pow {m base d g h p q : Nat} (hp : p < m) (hg : g = base ^ d % m)
    (hmod : p ≡ base ^ d * q + h [MOD m]) : subMod m p (g * q % m) = h % m := by
  have hprod : base ^ d * q % m = g * q % m := by rw [hg, Nat.mod_mul_mod]
  refine subMod_of_modEq hp (Nat.mod_lt _ (by omega)) (hmod.trans (Nat.ModEq.add_right h ?_))
  exact hprod ▸ (Nat.mod_modEq _ _).symm

section RangeHash

variable {x : Nat → Nat}

theorem NarrowInstance.preNAt_eq_some (inst : NarrowInstance s x) {k : Nat} (h : k ≤ s.nN.toNat) :
    ∃ v, preNAt s k = some v := by
  have hl := inst.pre_length
  exact ⟨_, List.getElem?_eq_getElem (by omega)⟩

theorem NarrowInstance.sufNAt_eq_some (inst : NarrowInstance s x) {k : Nat} (h : k ≤ s.nN.toNat) :
    ∃ v, sufNAt s k = some v := by
  have hl := inst.suf_length
  exact ⟨_, List.getElem?_eq_getElem (by omega)⟩

/-- The power that a range of an instance asks of the built table (10_state.md R33). -/
theorem NarrowInstance.powNAt_range (inst : NarrowInstance s x) (hbuilt : s.powN = .built Config.baseN)
    (hr : r.toNat < s.nN.toNat) : ∃ g, powNAt s (r.toNat - l.toNat + 1) = some g ∧
      g.toNat = Config.baseN.toNat ^ (r.toNat - l.toNat + 1) % Config.mN := by
  have hd : r.toNat - l.toNat + 1 < s.maxLen.toNat := by
    have := inst.length_lt
    omega
  obtain ⟨g, hg⟩ := Option.isSome_iff_exists.1 (powNAt_isSome.2 hd)
  exact ⟨g, hg, by rw [← powNAt_built hbuilt hd, hg, entryNum_some]⟩

/-- Two accumulators of the forward walk and the symbols between them. -/
theorem NarrowInstance.pre_modEq (inst : NarrowInstance s x) {k d : Nat} (h : k + d ≤ s.nN.toNat) :
    entryNum (preNAt s (k + d)) ≡ Config.baseN.toNat ^ d * entryNum (preNAt s k) +
      polyHash Config.baseN.toNat (fun j => x (k + j)) d [MOD Config.mN] := by
  refine modEq_polyHash (acc := fun j => entryNum (preNAt s (k + j))) fun j hj => ?_
  rw [← Nat.add_assoc, inst.pre_next (k + j) (by omega)]
  exact Nat.mod_modEq _ _

/-- Two accumulators of the backward walk and the symbols between them. -/
theorem NarrowInstance.suf_modEq (inst : NarrowInstance s x) {k d : Nat} (hd : d ≤ k + 1)
    (hk : k < s.nN.toNat) :
    entryNum (sufNAt s (k + 1 - d)) ≡ Config.baseN.toNat ^ d * entryNum (sufNAt s (k + 1)) +
      polyHash Config.baseN.toNat (fun j => x (k - j)) d [MOD Config.mN] := by
  refine modEq_polyHash (acc := fun j => entryNum (sufNAt s (k + 1 - j))) fun j hj => ?_
  have hnext : k + 1 - (j + 1) = k - j := by omega
  have hprev : k + 1 - j = k - j + 1 := by omega
  rw [hnext, hprev, inst.suf_next (k - j) (by omega)]
  exact Nat.mod_modEq _ _

/-- `GETH.N` hashes the range read forward (43_rollhash_narrow.md R181). -/
theorem NarrowInstance.exec_gethN (inst : NarrowInstance s x) (hbuilt : s.powN = .built Config.baseN)
    (hlr : l.toNat ≤ r.toNat) (hr : r.toNat < s.nN.toNat) :
    Machine.exec (.gethN l r) s = .next (replied .ok (polyHash Config.baseN.toNat
      (fun j => x (l.toNat + j)) (r.toNat - l.toNat + 1) % Config.mN) s) := by
  obtain ⟨p, hp⟩ := inst.preNAt_eq_some hr
  obtain ⟨g, hg, hpow⟩ := inst.powNAt_range (l := l) hbuilt hr
  obtain ⟨q, hq⟩ := inst.preNAt_eq_some (hlr.trans hr.le)
  have hlt : entryNum (preNAt s (r.toNat + 1)) < Config.mN :=
    (inst.pre_next r.toNat hr).trans_lt (Nat.mod_lt _ (by decide))
  have hmod := inst.pre_modEq (k := l.toNat) (d := r.toNat - l.toNat + 1) (by omega)
  rw [show l.toNat + (r.toNat - l.toNat + 1) = r.toNat + 1 by omega, hp, hq] at hmod
  rw [hp] at hlt
  rw [exec_gethN_of_inside hlr hr hp hg hq,
    subMod_mul_of_modEq_pow (p := p.toNat) (q := q.toNat) hlt hpow hmod]

/-- `REVH.N` hashes the range read backward (43_rollhash_narrow.md R181). -/
theorem NarrowInstance.exec_revhN (inst : NarrowInstance s x) (hbuilt : s.powN = .built Config.baseN)
    (hlr : l.toNat ≤ r.toNat) (hr : r.toNat < s.nN.toNat) :
    Machine.exec (.revhN l r) s = .next (replied .ok (polyHash Config.baseN.toNat
      (fun j => x (r.toNat - j)) (r.toNat - l.toNat + 1) % Config.mN) s) := by
  obtain ⟨p, hp⟩ := inst.sufNAt_eq_some (hlr.trans hr.le)
  obtain ⟨g, hg, hpow⟩ := inst.powNAt_range (l := l) hbuilt hr
  obtain ⟨q, hq⟩ := inst.sufNAt_eq_some hr
  have hlt : entryNum (sufNAt s l.toNat) < Config.mN :=
    (inst.suf_next l.toNat (hlr.trans_lt hr)).trans_lt (Nat.mod_lt _ (by decide))
  have hmod := inst.suf_modEq (k := r.toNat) (d := r.toNat - l.toNat + 1) (by omega) hr
  rw [show r.toNat + 1 - (r.toNat - l.toNat + 1) = l.toNat by omega, hp, hq] at hmod
  rw [hp] at hlt
  rw [exec_revhN_of_inside hlr hr hp hg hq,
    subMod_mul_of_modEq_pow (p := p.toNat) (q := q.toNat) hlt hpow hmod]

theorem NarrowInstance.exec_gethN_one (inst : NarrowInstance s x) (hbuilt : s.powN = .built Config.baseN)
    (hl : l.toNat < s.nN.toNat) :
    Machine.exec (.gethN l l) s = .next (replied .ok (x l.toNat % Config.mN) s) := by
  rw [inst.exec_gethN hbuilt le_rfl hl, Nat.sub_self, polyHash_one, Nat.add_zero]

theorem NarrowInstance.exec_revhN_one (inst : NarrowInstance s x) (hbuilt : s.powN = .built Config.baseN)
    (hl : l.toNat < s.nN.toNat) :
    Machine.exec (.revhN l l) s = .next (replied .ok (x l.toNat % Config.mN) s) := by
  rw [inst.exec_revhN hbuilt le_rfl hl, Nat.sub_self, polyHash_one, Nat.sub_zero]

end RangeHash

/-- Terms with a zero symbol drop out of a range's sum. -/
theorem sum_mul_subset_of_zero {x f : Nat → Nat} {a b c d : Nat} (hca : c ≤ a) (hbd : b ≤ d)
    (hzero : ∀ k, c ≤ k → k ≤ d → k < a ∨ b < k → x k = 0) :
    ∑ k ∈ Finset.Icc a b, x k * f k = ∑ k ∈ Finset.Icc c d, x k * f k := by
  refine Finset.sum_subset (Finset.Icc_subset_Icc hca hbd) fun k hk hout => ?_
  rw [Finset.mem_Icc] at hk hout
  rw [hzero k hk.1 hk.2 (by omega), Nat.zero_mul]

/-! ### The obligations on the queries -/

/-- Settles O29: the refused ranges, the difference of the entries, and the range of one symbol. -/
theorem forwardHashNarrowAnswers : Obligations.ForwardHashNarrowAnswers := fun s l r =>
  ⟨(OpcodeMap.gethN l r).decode_eq, exec_gethN_of_outside,
    fun _ _ _ hlr hr hp hg hq hlt => by
      rw [exec_gethN_of_inside hlr hr hp hg hq, subMod_mul_mod_eq_toNat (m := Config.mN) hlt]
      rfl,
    fun _ inst => inst.exec_gethN_one⟩

/-- Settles O30: the refused ranges, the difference of the entries, and the range of one symbol. -/
theorem reverseHashNarrowAnswers : Obligations.ReverseHashNarrowAnswers := fun s l r =>
  ⟨(OpcodeMap.revhN l r).decode_eq, exec_revhN_of_outside,
    fun _ _ _ hlr hr hp hg hq hlt => by
      rw [exec_revhN_of_inside hlr hr hp hg hq, subMod_mul_mod_eq_toNat (m := Config.mN) hlt]
      rfl,
    fun _ inst => inst.exec_revhN_one⟩

/-- Settles O36: the recurrences telescope to the hash of the range, and the sum is that hash. -/
theorem narrowQueriesHashTheRange : Obligations.NarrowQueriesHashTheRange := by
  intro s x l r inst hbuilt hlr hr
  rw [sum_forward_eq_polyHash hlr, sum_backward_eq_polyHash hlr]
  exact ⟨inst.exec_gethN hbuilt hlr hr, inst.exec_revhN hbuilt hlr hr⟩

/-- Settles O38: both queries hash the same symbols in the same order. -/
theorem narrowMirroredRangesHashAlike : Obligations.NarrowMirroredRangesHashAlike := by
  intro s x l r l' r' inst hbuilt hlr hr hlr' hr' hlen hmirror
  refine ⟨_, inst.exec_gethN hbuilt hlr hr, ?_⟩
  rw [inst.exec_revhN hbuilt hlr' hr', ← hlen,
    polyHash_congr fun j hj => hmirror j (Nat.le_of_lt_succ hj)]

/-- Settles O40: in the sum of the range the terms of the zero symbols drop out, and the exponents, counted
from the other end, stay. -/
theorem narrowZerosAtTheEndsDoNotCount : Obligations.NarrowZerosAtTheEndsDoNotCount := by
  intro s x l m r inst hbuilt hlm hmr hr
  obtain ⟨hforward, hbackward⟩ :=
    narrowQueriesHashTheRange s x l r inst hbuilt (hlm.trans hmr) hr
  constructor
  · intro hzero
    refine ⟨_, hforward, ?_⟩
    rw [(narrowQueriesHashTheRange s x m r inst hbuilt hmr hr).1,
      sum_mul_subset_of_zero hlm le_rfl fun k hlk hkr hout => hzero k hlk (by omega)]
  · intro hzero
    refine ⟨_, hbackward, ?_⟩
    rw [(narrowQueriesHashTheRange s x l m inst hbuilt hlm (hmr.trans_lt hr)).2,
      sum_mul_subset_of_zero le_rfl hmr fun k hlk hkr hout => hzero k (by omega) hkr]

end Sys2Proof
end

section
/-! SUPPORT. What `WSYM`, `RSYM` and `CSRW` answer (44_host_access.md R196, R197, R200). -/

namespace Sys2Proof

open Sys2Proof.Machine Sys2Proof.Laws

/-! ### `WSYM` and `RSYM` -/

section SymbolBuffer

variable {s : State} {k v : Lane}

/-- A symbol that does not fit is refused before the index is looked at. -/
theorem exec_wsym_of_unfit (hv : 2 ^ 32 ≤ v.toNat) :
    exec (.wsym k v) s = .next (replied .operandRange 0 s) :=
  if_pos hv.not_gt

theorem exec_wsym_of_le (hv : v.toNat < 2 ^ 32) (hk : s.maxLen.toNat ≤ k.toNat) :
    exec (.wsym k v) s = .next (replied .indexOutOfRange 0 s) :=
  (if_neg (not_not.2 hv)).trans (if_neg hk.not_gt)

/-- A symbol that fits is the number written: narrowing the lane loses nothing. -/
theorem symAt_writeSym_setWidth_toNat (j : Nat) (hv : v.toNat < 2 ^ 32) (s : State) :
    (symAt (writeSym j (v.setWidth 32) s) j).toNat = v.toNat := by
  rw [symAt_writeSym_same, BitVec.toNat_setWidth, Nat.mod_eq_of_lt hv]

theorem exec_rsym_of_le (hk : s.maxLen.toNat ≤ k.toNat) :
    exec (.rsym k) s = .next (replied .indexOutOfRange 0 s) :=
  if_neg hk.not_gt

theorem exec_rsym_of_lt (hk : k.toNat < s.maxLen.toNat) :
    exec (.rsym k) s = .next (replied .ok (symAt s k.toNat).toNat s) :=
  (if_pos hk).trans (answer_setWidth (by decide) _ s)

end SymbolBuffer

/-- Settles O41: the three branches in their order; the write changes the one entry of the buffer. -/
theorem writeSymbolWritesOneEntry : Obligations.WriteSymbolWritesOneEntry := fun s k v =>
  ⟨(OpcodeMap.wsym k v).decode_eq, exec_wsym_of_unfit, exec_wsym_of_le, fun hv hk =>
    ⟨writeSym k.toNat (v.setWidth 32) s, exec_wsym_of_lt hv hk,
      symAt_writeSym_setWidth_toNat k.toNat hv s, fun _ hj => symAt_writeSym_other hj _ s, rfl⟩⟩

/-- Settles O42: the two branches; an entry never written reads as its free value. -/
theorem readSymbolAnswers : Obligations.ReadSymbolAnswers := fun _ k b =>
  ⟨(OpcodeMap.rsym k b).decode_eq, exec_rsym_of_le, exec_rsym_of_lt⟩

/-! ### `CSRW` -/

theorem exec_csrw_seed (v : Lane) (s : State) :
    exec (.csrw .seed v) s = .next (replied .ok 0 { s with seed := v }) :=
  rfl

theorem exec_csrw_of_ne_seed {r : Csr} (hr : r ≠ .seed) (v : Lane) (s : State) :
    exec (.csrw r v) s = .next (replied .illegalCommand 0 s) :=
  if_neg (mt writable_iff.1 hr)

/-- `CSRW` has the highest opcode, and of its words one is legal (30_encoding.md R100). -/
theorem toNat_of_legal_csrw :
    ∀ w ∈ legalWords, 0x21000000 ≤ w.toNat → w.toNat = 0x21000002 := by
  simp [legalWords]

theorem decode_csrw_error {w : Word} (a b : Lane) (hlo : 0x21000000 ≤ w.toNat)
    (hne : w.toNat ≠ 0x21000002) : ∃ e, decode ⟨w, a, b⟩ = .error e := by
  cases hd : decode ⟨w, a, b⟩ with
  | error e => exact ⟨e, rfl⟩
  | ok i => exact absurd (toNat_of_legal_csrw w (opcodeMap_of_decode hd).word_mem hlo) hne

/-- Settles O44: the one legal word of the opcode, and a write to a register that is not writable. -/
theorem writeControlRegisterWritesTheSeed : Obligations.WriteControlRegisterWritesTheSeed :=
  fun s v b => ⟨(OpcodeMap.csrw v b).decode_eq, exec_csrw_seed v s,
    fun _ hlo _ hne => decode_csrw_error v b hlo hne, fun _ hr => exec_csrw_of_ne_seed hr v s⟩

end Sys2Proof
end

section
/-! SUPPORT. What a failed command leaves and which statuses a command can answer (60_exceptions.md R210
to R219). -/

namespace Sys2Proof

open Sys2Proof.Machine Sys2Proof.Laws

variable {s t : State} {r : Response}

/-- The newest response is the one just delivered. -/
theorem eq_of_respond_responses {st : Status} {v : Lane} {rs : List Response}
    (h : (respond st v t).responses = r :: rs) : r = ⟨st, v⟩ :=
  (List.cons.inj h).1.symm

/-- The six writes answer `OK`, so a command that fails has answered alone, with the value 0
(60_exceptions.md R212). -/
theorem exec_eq_replied_of_failure {i : Instr} (h : exec i s = .next t)
    (hr : t.responses = r :: s.responses) (hne : r.status ≠ .ok) : t = replied r.status 0 s := by
  cases effect_of_exec h with
  | answerOnly st v hv =>
    obtain rfl := eq_of_respond_responses hr
    obtain rfl := hv hne
    rfl
  | _ => exact absurd (congrArg Response.status (eq_of_respond_responses hr)) hne

/-- A legal command fails by its rule, an illegal word with `ILLEGAL_COMMAND` (60_exceptions.md R216). -/
theorem runCommand_eq_replied_of_failure {c : Command} (h : runCommand c s = .next t)
    (hr : t.responses = r :: s.responses) (hne : r.status ≠ .ok) : t = replied r.status 0 s := by
  unfold runCommand at h
  split at h
  · exact exec_eq_replied_of_failure h hr hne
  · cases h
    obtain rfl := eq_of_respond_responses hr
    rfl

/-- Settles O45: the step takes the event, and the command that fails adds its response alone. -/
theorem failureChangesNothing : Obligations.FailureChangesNothing := by
  intro s t c rest r hin h hr hne
  rw [step_of_event hin, dropInput_of_inputs hin] at h
  exact runCommand_eq_replied_of_failure h hr hne

/-- Settles O46: an answer alone has a status of the command's list, and of each command that writes the
list begins with `OK`. -/
theorem commandsAnswerOnlyTheirStatuses : Obligations.CommandsAnswerOnlyTheirStatuses := by
  intro i s t r hw h hr
  cases effect_of_exec h with
  | answerOnly st v _ hst =>
    obtain rfl := eq_of_respond_responses hr
    exact hst hw
  | initWide e | initNarrow e | buildWide _ e | buildNarrow _ e | writeSym _ _ e | writeSeed _ e =>
    subst e
    obtain rfl := eq_of_respond_responses hr
    exact .head _

/-- Settles O7, by the step's branch for no pending event. -/
theorem stepWithNothingPendingHoldsTheState : Obligations.StepWithNothingPendingHoldsTheState :=
  fun _ => step_of_idle

/-- Settles O47: the check that comes first decides, whatever the operand of the later one. -/
theorem failurePriority : Obligations.FailurePriority :=
  ⟨fun _ _ _ _ => exec_wsym_of_unfit, fun _ _ hs _ => exec_rdpowW_of_not_init hs,
    fun _ _ hs _ => exec_rdpowN_of_not_init hs, fun _ _ _ _ _ => step_of_illegal (by simp [legalWords])⟩

end Sys2Proof
end

section
/-! SUPPORT. What a reset leaves, between commands and during one (70_reset_and_hazards.md R240 to R242),
and that a `BUILD` does not see whether its slice was initialised before it (70_reset_and_hazards.md
R243). -/

namespace Sys2Proof

open Sys2Proof.Machine Sys2Proof.Laws

variable {s : State}

/-! ### Reset -/

section Reset

variable {strap : Lane} {rest : List HostEvent}

theorem step_of_reset (h : s.inputs = .reset strap :: rest) :
    step s = .next (hostReset strap { s with inputs := rest }) := by
  rw [step_of_event h, dropInput_of_inputs h]
  rfl

theorem step_of_resetDuring {c : Command} (h : s.inputs = .resetDuring c strap :: rest) :
    step s = .next (hostReset strap { s with inputs := rest }) := by
  rw [step_of_event h, dropInput_of_inputs h]
  rfl

end Reset

/-- Settles O8: the step is the reset, which replaces every row of the state table. -/
theorem resetGivesTheResetState : Obligations.ResetGivesTheResetState := fun _ strap _ h =>
  ⟨_, step_of_reset h, by simp [preWAt, sufWAt, preNAt, sufNAt]⟩

/-- Settles O9: both steps are the same reset of the state from which the event is taken. -/
theorem resetDuringACommandAbandonsIt : Obligations.ResetDuringACommandAbandonsIt :=
  fun _ _ _ _ h => ⟨_, step_of_resetDuring h, step_of_reset rfl, rfl⟩

/-! ### Initialisation before `BUILD` or by it -/

/-- On a slice that `INIT.W` has just initialised, `BUILD.W` writes what it writes without the `INIT.W`. -/
theorem buildWide_replied_initWide (n v : Nat) (st : Status) (s : State) :
    buildWide n (replied st v (initWide s)) = replied st v (buildWide n s) := by
  have hinit : initWide (replied st v (initWide s)) = replied st v (initWide s) :=
    initWide_of_init (initWide_initW s)
  simp only [buildWide, hinit]
  rfl

/-- On a slice that `INIT.N` has just initialised, `BUILD.N` writes what it writes without the `INIT.N`. -/
theorem buildNarrow_replied_initNarrow (n v : Nat) (st : Status) (s : State) :
    buildNarrow n (replied st v (initNarrow s)) = replied st v (buildNarrow n s) := by
  have hinit : initNarrow (replied st v (initNarrow s)) = replied st v (initNarrow s) :=
    initNarrow_of_init (initNarrow_initN s)
  simp only [buildNarrow, hinit]
  rfl

/-- Settles O25: the `INIT` adds its response alone to what the `BUILD` leaves. -/
theorem eagerAndLazyInitialisationAgree : Obligations.EagerAndLazyInitialisationAgree := by
  intro s u n hn
  refine ⟨fun h => ?_, fun h => ?_⟩
  · cases (exec_initW s).symm.trans h
    refine ⟨_, _, exec_buildW_of_lt hn, exec_buildW_of_lt ((initWide_maxLen s).symm ▸ hn), ?_⟩
    rw [buildWide_replied_initWide]
    rfl
  · cases (exec_initN s).symm.trans h
    refine ⟨_, _, exec_buildN_of_lt hn, exec_buildN_of_lt ((initNarrow_maxLen s).symm ▸ hn), ?_⟩
    rw [buildNarrow_replied_initNarrow]
    rfl

end Sys2Proof
end
